-- ==== Sys2Proof/Word.lean ====
section
/-! DEFINITION. The two word types that do not depend on the instance's parameters. -/

namespace Sys2Proof

/-- An output word: the container of C = 32 bits (R9). -/
abbrev Word := BitVec 32

/-- The control byte `cmd_ctrl` and the register ERR_CTRL (R20, R22). -/
abbrev Byte := BitVec 8

end Sys2Proof
end

