-- ==== Sys2Proof/Config.lean ====
section
/-! DEFINITION. The parameters of one instance of the block (R8, R10), the widths that follow from them (R11), its
input ports (R20), and the free value: the input ports of a cycle that nothing else fixes (R38, R158). -/

namespace Sys2Proof

/-- The parameter PATTERN_WIDTH (R8): W is 16 or 32, and no variant of another width is described, so no other
value can be written down. `Machine.instantiate` takes W as a number and refuses every other one. -/
inductive PatternWidth where
  | w16
  | w32
deriving DecidableEq, Repr, Inhabited

/-- W as a number of bits. -/
@[reducible] def PatternWidth.bits : PatternWidth → Nat
  | .w16 => 16
  | .w32 => 32

/-- log2 W (R11). -/
@[reducible] def PatternWidth.log2 : PatternWidth → Nat
  | .w16 => 4
  | .w32 => 5

/-- The parameters of an instance, fixed when it is built (R38, R195): W (R8) and LW with 1 <= LW <= 64 (R10). -/
structure Config where
  width : PatternWidth
  lenWidth : Nat
  lenWidth_pos : 1 ≤ lenWidth
  lenWidth_le : lenWidth ≤ 64
deriving DecidableEq, Repr

/-- W, the effective pattern width (R8). -/
abbrev Config.W (c : Config) : Nat := c.width.bits

/-- SW = log2 W, the width of the register SHIFT (R11). -/
abbrev Config.SW (c : Config) : Nat := c.width.log2

/-- LW, the width of `cmd_len`, LEN and IDX (R10). -/
abbrev Config.LW (c : Config) : Nat := c.lenWidth

/-- The width of the packed command word { LEN, SEED, CTRL } (R66). -/
abbrev Config.cmdWidth (c : Config) : Nat := c.LW + 32 + 8

/-- The instance `State.reset` is built with. LW = 32 is the spec's reference value (R10); W = 32 is the model's
DESIGN CHOICE among the two variants, which the spec leaves open (R8, N2; log 1). -/
def Config.reference : Config := ⟨.w32, 32, by decide, by decide⟩

/-- The input ports in one cycle (R20), sampled at the rising edge of `clk` that ends it (R21). -/
structure Inputs (c : Config) where
  rst : Bool
  cmdValid : Bool
  cmdCtrl : Byte
  cmdSeed : Word
  cmdLen : BitVec c.LW
  outReady : Bool
deriving DecidableEq, Repr, Inhabited

/-- The FREE VALUE of the model: what environment number `env` puts on its block's input ports in cycle `n`, where the
state's own list of coming inputs says nothing. No body, so nothing can be proved of it (R158: "Inputs are free in every
cycle"; log 2). DESIGN CHOICE: each block of a bank has an environment of its own number, so that nothing relates the
inputs of two blocks (R184: none shares ports with another; log 10). -/
opaque Config.freeInputs (c : Config) (env n : Nat) : Inputs c

end Sys2Proof
end

