-- ==== Sys2Proof/Syntax.lean ====
section
/-! DEFINITION. The command as it stands on the three ports (R65), the four commands once decoded (R68), the opcode,
and the lines of the assembler's language (R78, R79). -/

namespace Sys2Proof

/-- The opcodes (R68); the value of the register OP (R24). `Opcode.bits` gives the 2-bit encoding. -/
inductive Opcode where
  | walk
  | alt
  | chk
  | zo
deriving DecidableEq, Repr, Inhabited

/-- The command ports, sampled together (R65). -/
structure Command (c : Config) where
  ctrl : Byte
  seed : Word
  len : BitVec c.LW
deriving DecidableEq, Repr, Inhabited

/-- The command on the ports of one cycle. -/
def Inputs.command {c : Config} (inp : Inputs c) : Command c := ⟨inp.cmdCtrl, inp.cmdSeed, inp.cmdLen⟩

/-- A decoded command: one constructor per row of spec/opcode_table.json, with the operands the command has. A field
the command ignores (SEED of WALK, CHK and ZO, R72) is no operand. `len` is a count of words (R73); that it fits
in LW bits is `Instr.wellFormed`. -/
inductive Instr where
  /-- WALK (R107): `pol` is the bit P, true for walking ones (R69). -/
  | walk (pol : Bool) (len : Nat)
  /-- ALT (R122): `seed` is the whole 32-bit SEED field, of which the block uses the low W bits (R72). -/
  | alt (seed : Word) (len : Nat)
  /-- CHK (R123). -/
  | chk (len : Nat)
  /-- ZO (R124). -/
  | zo (len : Nat)
deriving DecidableEq, Repr, Inhabited

/-- LEN, the operand every command has (R73). -/
def Instr.len : Instr → Nat
  | .walk _ len => len
  | .alt _ len => len
  | .chk len => len
  | .zo len => len

/-- A line of the assembler's language: the five spellings of R78, then the pseudo-instructions of R79. -/
inductive AsmLine where
  | walk (len : Nat) (ones : Bool)
  | alt (len : Nat) (seed : Nat)
  | chk (len : Nat)
  | zo (len : Nat)
  | walk1 (len : Nat)
  | walk0 (len : Nat)
  | checkerboard (len : Nat)
  | zeroones (len : Nat)
  | illegal (byte : Nat)
deriving DecidableEq, Repr

/-- Why the assembler refuses a line: a literal outside the range R78 gives it. -/
inductive AsmError where
  /-- `<len>` above 2^LW - 1. -/
  | lengthTooLarge
  /-- `<seed>` above MASK_W. -/
  | seedTooLarge
  /-- `<byte>` above 0xFF, which no control byte holds. -/
  | byteTooLarge
deriving DecidableEq, Repr

end Sys2Proof
end

