-- ==== Sys2Proof/Machine/State.lean ====
section
/-! DEFINITION. The registers of the block (R22) and its state: an instance's parameters, its registers, the input
ports of the coming cycles. RESET_STATE (R190). The reasons a step could stop. -/

namespace Sys2Proof.Machine

/-- There is no fault: the step "never faults, sticks or refuses" (R153), and the block has no access, arithmetic or
allocation that could fail (R63, R178). The one exception, ILLEGAL_CMD, is recorded in registers and stops nothing
(R170 to R173). Safe: no state of the hardware is left out by it. -/
inductive Fault where
deriving DecidableEq, Repr

/-- The reasons the model gives no meaning. No step answers one. -/
inductive Refusal where
  /-- An arm of `exec` that has no meaning yet; none is left. Safe. -/
  | notModelled (mnemonic : String)
  /-- `exec` of a command whose length LW bits do not hold; the length port cannot carry it (R10, U2 "lengths >= 2^LW
  are `refuse`"). Raised by `offerCommand`. Safe. -/
  | lengthNotRepresentable (len : Nat)
  /-- `instantiate` with a pattern width other than 16 or 32 (R8 "It must refuse any other value", U3). Safe. -/
  | patternWidthNotDescribed (w : Nat)
  /-- `instantiate` with a length width outside 1 .. 64 (R10). Safe. -/
  | lengthWidthOutOfRange (lw : Nat)
deriving DecidableEq, Repr

/-- The exception causes (R170): one. -/
inductive Cause where
  | illegalCmd
deriving DecidableEq, Repr

/-- The registers of one instance, in the order of R22's table. -/
structure Regs (c : Config) where
  /-- BUSY (R23): a sequence is being emitted. -/
  busy : Bool
  /-- OP (R24): the opcode of the last legal command accepted. -/
  op : Opcode
  /-- LEN (R27): the length of the latched command. -/
  len : BitVec c.LW
  /-- IDX (R28): the index of the word on `out_data`. -/
  idx : BitVec c.LW
  /-- ERR (R32): an illegal command has been accepted since reset. -/
  err : Bool
  /-- ERR_CTRL (R33): the control byte of the first of them. -/
  errCtrl : Byte
  /-- POL (R25): walking ones. -/
  pol : Bool
  /-- SHIFT (R29): the shift position. -/
  shift : BitVec c.SW
  /-- FLIP (R30): a falling lap. -/
  flip : Bool
  /-- SEED (R26): the effective seed. -/
  seed : BitVec c.W
  /-- TOGGLE (R31): pass-through. -/
  toggle : Bool
deriving DecidableEq, Repr

/-- RESET_STATE (R190). -/
def Regs.reset (c : Config) : Regs c where
  busy := false
  op := .walk
  len := 0
  idx := 0
  err := false
  errCtrl := 0x00#8
  pol := false
  shift := 0
  flip := false
  seed := 0
  toggle := true

/-- The state of the model. `regs` is all the state the block has (R22). The rest is the model's own: the instance's
parameters `cfg`, which no step changes (R38); the input ports of the coming cycles, oldest first; and the two numbers
the free inputs are applied to once `inputs` is used up, of the coming cycle and of the environment that drives this
block's ports (log 1, 2, 3). `env` names the block's surroundings: the block has no identifier (R184). -/
structure State where
  cfg : Config
  regs : Regs cfg
  inputs : List (Inputs cfg)
  cycle : Nat
  env : Nat
deriving DecidableEq, Repr

/-- An instance with parameters `c` right after a reset edge, whatever its environment, number `env`, does next. -/
def State.resetFor (c : Config) (env : Nat) : State := ⟨c, Regs.reset c, [], 0, env⟩

/-- The machine right after reset: RESET_STATE of the reference instance, in environment 0 (R190; log 1, 2). -/
def State.reset : State := State.resetFor Config.reference 0

end Sys2Proof.Machine
end

