-- ==== Sys2Proof/Machine/Flags.lean ====
section
/-! DEFINITION. The flags and counters a word advance computes (R150), and the two comparisons with LEN (R143, R148). -/

namespace Sys2Proof.Machine

/-- BUSY at a legal accept: a sequence with at least one word starts (R143, R144). -/
def startsBusy {c : Config} (len : BitVec c.LW) : Bool := decide (len ≠ 0)

/-- IDX = LEN - 1, with LEN - 1 computed at LW bits (R148). -/
def atLastWord {c : Config} (r : Regs c) : Bool := decide (r.idx = r.len - 1)

/-- SHIFT after a word advance: (SHIFT + 1) mod W (R150). -/
def nextShift {c : Config} (shift : BitVec c.SW) : BitVec c.SW := BitVec.ofNat c.SW ((shift.toNat + 1) % c.W)

/-- FLIP after a word advance: inverted exactly when SHIFT = W - 1 before it (R30, R150). -/
def nextFlip {c : Config} (flip : Bool) (shift : BitVec c.SW) : Bool := xor flip (decide (shift.toNat = c.W - 1))

/-- TOGGLE after a word advance (R31, R150). -/
def nextToggle (toggle : Bool) : Bool := !toggle

end Sys2Proof.Machine
end

