-- ==== Sys2Proof/WellFormed.lean ====
section
/-! DEFINITION. When a decoded command can stand on the ports of an instance. -/

namespace Sys2Proof

/-- The one check: LEN is an unsigned LW-bit count, 0 .. 2^LW - 1 (R10, R73). No SEED and no polarity is ill formed
(R71: "The SEED and LEN fields never make a command illegal"). -/
def Instr.wellFormed (c : Config) (i : Instr) : Bool := decide (i.len < 2 ^ c.LW)

end Sys2Proof
end

