-- ==== Sys2Proof/Decode.lean ====
section
/-! DEFINITION. The control byte's fields and legality (R67 to R71), the decoder (R77), and after it the encoder, both
over the command ports (R65) and over the packed command word (R66). -/

namespace Sys2Proof

/-- OPC = `cmd_ctrl[1:0]` (R67). -/
def opcField (ctrl : Byte) : BitVec 2 := ctrl.extractLsb' 0 2

/-- P = `cmd_ctrl[2]` (R67, R69). -/
def polField (ctrl : Byte) : Bool := ctrl.getLsbD 2

/-- RSV = `cmd_ctrl[7:3]` (R67). -/
def rsvField (ctrl : Byte) : BitVec 5 := ctrl.extractLsb' 3 5

/-- Legality of a control byte, R71. -/
def legal (ctrl : Byte) : Bool :=
  decide (rsvField ctrl = 0b00000#5) && (decide (opcField ctrl = 0b00#2) || !polField ctrl)

/-- The opcode a value of OPC names (R68); no value is unassigned. -/
def Opcode.ofBits (b : BitVec 2) : Opcode :=
  if b = 0b00#2 then .walk
  else if b = 0b01#2 then .alt
  else if b = 0b10#2 then .chk
  else .zo

/-- The 2-bit value of an opcode (R68). -/
def Opcode.bits : Opcode → BitVec 2
  | .walk => 0b00#2
  | .alt => 0b01#2
  | .chk => 0b10#2
  | .zo => 0b11#2

/-- Why a control byte is illegal (R70, R74). -/
inductive IllegalCtrl where
  /-- RSV is not zero. -/
  | reservedBitsSet
  /-- P = 1 and OPC is not that of WALK. -/
  | polaritySetWithoutWalk
deriving DecidableEq, Repr

/-- The decoder (R77), total on every command: the operands of the command the control byte names, or by name why it
is illegal. -/
def decode {c : Config} (cmd : Command c) : Except IllegalCtrl Instr :=
  if rsvField cmd.ctrl ≠ 0b00000#5 then .error .reservedBitsSet
  else
    match Opcode.ofBits (opcField cmd.ctrl), polField cmd.ctrl with
    | .walk, p => .ok (.walk p cmd.len.toNat)
    | .alt, false => .ok (.alt cmd.seed cmd.len.toNat)
    | .chk, false => .ok (.chk cmd.len.toNat)
    | .zo, false => .ok (.zo cmd.len.toNat)
    | .alt, true => .error .polaritySetWithoutWalk
    | .chk, true => .error .polaritySetWithoutWalk
    | .zo, true => .error .polaritySetWithoutWalk

/-- The packed command word { LEN, SEED, CTRL } (R66). -/
def Command.pack {c : Config} (cmd : Command c) : BitVec c.cmdWidth := cmd.len ++ cmd.seed ++ cmd.ctrl

/-- The three fields of a packed command word (R66). -/
def Command.unpack {c : Config} (w : BitVec c.cmdWidth) : Command c where
  ctrl := w.extractLsb' 0 8
  seed := w.extractLsb' 8 32
  len := w.extractLsb' 40 c.LW

/-- The decoder on a packed command word. -/
def decodeWord (c : Config) (w : BitVec c.cmdWidth) : Except IllegalCtrl Instr := decode (Command.unpack w : Command c)

/-- The command whose packed bits are the low `nbits` bits of `w`, every bit above them zero (the numbering of
spec/opcode_table.json, whose rows give the control byte only). -/
def Command.ofTableWord (c : Config) (nbits w : Nat) : Command c := Command.unpack (BitVec.ofNat c.cmdWidth (w % 2 ^ nbits))

/-- The instruction the decoder reads from a word of the opcode table, at the reference instance's LW (log 13). -/
def decodeTableWord (nbits w : Nat) : Option Instr :=
  match decode (Command.ofTableWord Config.reference nbits w) with
  | .ok i => some i
  | .error _ => none

/-- The control byte of a command: RSV zero, P only with WALK, OPC (R67, R74). -/
def encodeCtrl : Instr → Byte
  | .walk pol _ => 0b00000#5 ++ BitVec.ofBool pol ++ Opcode.walk.bits
  | .alt _ _ => 0b00000#5 ++ 0b0#1 ++ Opcode.alt.bits
  | .chk _ => 0b00000#5 ++ 0b0#1 ++ Opcode.chk.bits
  | .zo _ => 0b00000#5 ++ 0b0#1 ++ Opcode.zo.bits

/-- The SEED field of a command: ALT's seed, and the assembler's 0 where the block ignores the field (R78). -/
def encodeSeed : Instr → Word
  | .walk _ _ => 0
  | .alt seed _ => seed
  | .chk _ => 0
  | .zo _ => 0

/-- The encoder: the ports' values of a well-formed command (R65, R78). -/
def encode (c : Config) (i : Instr) : Command c := ⟨encodeCtrl i, encodeSeed i, BitVec.ofNat c.LW i.len⟩

/-- The encoder to a packed command word (R66). -/
def encodeWord (c : Config) (i : Instr) : BitVec c.cmdWidth := (encode c i).pack

/-- A row of spec/opcode_table.json: `mask` and `pattern` over the control byte. -/
structure OpcodeRow where
  mnemonic : String
  opcode : Opcode
  pattern : Byte
  mask : Byte
deriving DecidableEq, Repr

/-- A row covers a control byte. -/
def OpcodeRow.covers (row : OpcodeRow) (ctrl : Byte) : Bool := ctrl &&& row.mask == row.pattern

/-- spec/opcode_table.json, row for row. -/
def opcodeTable : List OpcodeRow :=
  [⟨"WALK", .walk, 0x00#8, 0xFB#8⟩, ⟨"ALT", .alt, 0x01#8, 0xFF#8⟩, ⟨"CHK", .chk, 0x02#8, 0xFF#8⟩, ⟨"ZO", .zo, 0x03#8, 0xFF#8⟩]

/-- The opcode of a decoded command. -/
def Instr.opcode : Instr → Opcode
  | .walk _ _ => .walk
  | .alt _ _ => .alt
  | .chk _ => .chk
  | .zo _ => .zo

/-- What a command writes to POL: WALK's P, and 0 for the others (R25). -/
def Instr.polarity : Instr → Bool
  | .walk pol _ => pol
  | .alt _ _ => false
  | .chk _ => false
  | .zo _ => false

end Sys2Proof
end

