-- ==== Sys2Proof/Machine/Operands.lean ====
section
/-! DEFINITION. The derived constants of an instance (R11) and the forms of a command's operands: the SEED field and
the effective seed (R72, R121), the LEN field (R73). -/

namespace Sys2Proof.Machine

/-- `zext_C` (R13): a W-bit value in the 32-bit container. -/
def zextC {c : Config} (v : BitVec c.W) : Word := v.setWidth 32

/-- MASK_W = 2^W - 1 (R11). -/
def maskW (c : Config) : BitVec c.W := BitVec.ofNat c.W (2 ^ c.W - 1)

/-- TOP_W = 1 << (W-1) (R11). -/
def topW (c : Config) : BitVec c.W := 1#c.W <<< (c.W - 1)

/-- ONES_W, the source's ALL_ONES (R11). -/
def onesW (c : Config) : BitVec c.W := maskW c

/-- The nibble 0xA written `n` times. -/
def repeatNibbleA : Nat → Nat
  | 0 => 0
  | n + 1 => 16 * repeatNibbleA n + 0xA

/-- CHK_W: the nibble 0xA repeated W/4 times (R11). -/
def chkW (c : Config) : BitVec c.W := BitVec.ofNat c.W (repeatNibbleA (c.W / 4))

/-- CHK_INV_W = ~CHK_W & MASK_W (R11). -/
def chkInvW (c : Config) : BitVec c.W := ~~~chkW c &&& maskW c

/-- `cmd_seed[W-1:0]`; the bits above are ignored (R72). -/
def seedLow (c : Config) (cmdSeed : Word) : BitVec c.W := cmdSeed.extractLsb' 0 c.W

/-- `eff_seed`, the value loaded into SEED at a legal accept (R121). -/
def effSeed (c : Config) (op : Opcode) (cmdSeed : Word) : BitVec c.W :=
  match op with
  | .walk => 0
  | .alt => seedLow c cmdSeed
  | .chk => chkW c
  | .zo => 0

/-- A length on the LW-bit port (R73); exact for a length below 2^LW. -/
def lenField (c : Config) (len : Nat) : BitVec c.LW := BitVec.ofNat c.LW len

end Sys2Proof.Machine
end

