-- ==== Sys2Proof/Machine/Ops.lean ====
section
/-! DEFINITION. The shared operations on the registers: reset, legal accept, ILLEGAL_CMD, word advance, completion, the
output channel's edge. A command offered to the block. The environment's inputs, cycle by cycle. Building an instance. -/

namespace Sys2Proof.Machine

/-- Legal accept (R143): what every command latches, with its own opcode, polarity, effective seed and length. -/
def Regs.latch {c : Config} (op : Opcode) (pol : Bool) (seed : BitVec c.W) (len : BitVec c.LW) (r : Regs c) : Regs c :=
  { r with
    op := op
    pol := pol
    seed := seed
    len := len
    idx := 0
    shift := 0
    flip := false
    toggle := true
    busy := startsBusy len }

/-- TAKING THE EXCEPTION ILLEGAL_CMD (R172): the control byte is recorded if it is the first since reset, ERR is set,
and nothing else changes (R145, R173). There is no return from it: only reset clears the two registers (R175). -/
def Regs.raiseIllegalCmd {c : Config} (ctrl : Byte) (r : Regs c) : Regs c :=
  { r with
    errCtrl := if r.err then r.errCtrl else ctrl
    err := true }

/-- Word advance (R150); it is the same for every opcode (D20). -/
def Regs.advance {c : Config} (r : Regs c) : Regs c :=
  { r with
    idx := r.idx + 1
    shift := nextShift r.shift
    flip := nextFlip r.flip r.shift
    toggle := nextToggle r.toggle }

/-- Completion (R151). -/
def Regs.complete {c : Config} (r : Regs c) : Regs c := { r with busy := false }

/-- The edge of the output channel while BUSY = 1: hold without `out_ready` (R152), else complete or advance. -/
def Regs.outputEdge {c : Config} (outReady : Bool) (r : Regs c) : Regs c :=
  if outReady then (if atLastWord r then r.complete else r.advance) else r

/-- What a cause's code is (R170). -/
def Cause.code : Cause → Nat
  | .illegalCmd => 1

/-- The exception that has occurred since reset, if one has (R170). -/
def Regs.cause {c : Config} (r : Regs c) : Option Cause := if r.err then some .illegalCmd else none

/-- The exception code: 0 means no exception since reset (R170). -/
def Regs.exceptionCode {c : Config} (r : Regs c) : Nat :=
  match r.cause with
  | some k => k.code
  | none => 0

/-- A decoded command offered to the block, the shared meaning of the four. A length that LW bits do not hold cannot be
offered and is refused (R10, U2; log 6). While BUSY = 1 the command is not accepted: it waits and has no effect
(R146, R198; log 5). Otherwise it is accepted and latched (R142, R143). -/
def offerCommand (op : Opcode) (pol : Bool) (cmdSeed : Word) (len : Nat) (s : State) :
    Host.Outcome State Fault Refusal :=
  if len < 2 ^ s.cfg.LW then
    if s.regs.busy then .next s
    else .next { s with regs := s.regs.latch op pol (effSeed s.cfg op cmdSeed) (lenField s.cfg len) }
  else .refused (.lengthNotRepresentable len)

/-- The input ports `k` cycles from now: as `inputs` lists them, and free past its end (R158; log 2). -/
def State.inputsAt (s : State) (k : Nat) : Inputs s.cfg := s.inputs.getD k (s.cfg.freeInputs s.env (s.cycle + k))

/-- The input ports of the current cycle. -/
def State.currentInputs (s : State) : Inputs s.cfg := s.inputs.headD (s.cfg.freeInputs s.env s.cycle)

/-- The cycle's inputs are used up; the registers are untouched. -/
def State.nextCycle (s : State) : State := { s with inputs := s.inputs.tail, cycle := s.cycle + 1 }

/-- The instance at a reset edge: every register takes its RESET_STATE value (R190, R191). -/
def State.resetEdge (s : State) : State := { s with regs := Regs.reset s.cfg }

/-- The instance with parameters W and LW in environment `env`, right after reset; W other than 16 and 32 is refused (R8), and so is LW
outside 1 .. 64 (R10). -/
def instantiate (w lw env : Nat) : Host.Outcome State Fault Refusal :=
  if h : 1 ≤ lw ∧ lw ≤ 64 then
    if w = 16 then .next (State.resetFor ⟨.w16, lw, h.1, h.2⟩ env)
    else if w = 32 then .next (State.resetFor ⟨.w32, lw, h.1, h.2⟩ env)
    else .refused (.patternWidthNotDescribed w)
  else .refused (.lengthWidthOutOfRange lw)

end Sys2Proof.Machine
end

