-- ==== Sys2Proof/Machine/AlternatingWordMux.lean ====
section
/-! DEFINITION. The unit alternating_word_mux (R120) and the commands ALT, CHK and ZO (R122 to R124), which write 0 to
POL and differ in the effective seed only (R126). -/

namespace Sys2Proof.Machine

/-- `awm_word` (R120): the seed or its complement, masked to W bits. -/
def awmWord {c : Config} (seed : BitVec c.W) (toggle : Bool) : Word :=
  let v := if toggle then zextC seed else ~~~zextC seed
  v &&& zextC (maskW c)

/-- ALT (R122). -/
def execAlt (seed : Word) (len : Nat) (s : State) : Host.Outcome State Fault Refusal :=
  offerCommand .alt false seed len s

/-- CHK (R123). -/
def execChk (len : Nat) (s : State) : Host.Outcome State Fault Refusal :=
  offerCommand .chk false 0 len s

/-- ZO (R124). -/
def execZo (len : Nat) (s : State) : Host.Outcome State Fault Refusal :=
  offerCommand .zo false 0 len s

end Sys2Proof.Machine
end

