-- ==== Sys2Proof/Machine/WalkingBitShifter.lean ====
section
/-! DEFINITION. The unit walking_bit_shifter (R100 to R106) and the command WALK (R107). -/

namespace Sys2Proof.Machine

/-- `wbs_raw`: the anchor (R101), then the rising lap (R102) or the falling lap (R103). -/
def wbsRaw {c : Config} (shift : BitVec c.SW) (flip : Bool) : BitVec c.W :=
  if shift = 0 ∧ flip = false then 1#c.W
  else if flip = false then 1#c.W <<< shift.toNat
  else topW c >>> shift.toNat

/-- `wbs_word` (R100): the polarity (R105) is applied in the 32-bit container, before the mask (R106). -/
def wbsWord {c : Config} (shift : BitVec c.SW) (flip pol : Bool) : Word :=
  let raw := zextC (wbsRaw shift flip)
  let pv := if pol then raw else ~~~raw
  pv &&& zextC (maskW c)

/-- WALK (R107). -/
def execWalk (pol : Bool) (len : Nat) (s : State) : Host.Outcome State Fault Refusal :=
  offerCommand .walk pol 0 len s

end Sys2Proof.Machine
end

