-- ==== Sys2Proof/Machine/Dispatch.lean ====
section
/-! DEFINITION. One arm per command. -/

namespace Sys2Proof.Machine

def exec (i : Instr) (s : State) : Host.Outcome State Fault Refusal :=
  match i with
  | .walk pol len => Sys2Proof.Machine.execWalk pol len s
  | .alt seed len => Sys2Proof.Machine.execAlt seed len s
  | .chk len => Sys2Proof.Machine.execChk len s
  | .zo len => Sys2Proof.Machine.execZo len s

end Sys2Proof.Machine
end

