-- ==== Sys2Proof/Machine/Edge.lean ====
section
/-! DEFINITION. One rising edge of `clk` with the cycle's inputs given (R140, R153): reset, then the output channel
while BUSY = 1, then the command channel. -/

namespace Sys2Proof.Machine

/-- The edge of an idle block (R142, R145): a command on the ports is decoded and run, an illegal one raises
ILLEGAL_CMD, and with none nothing changes. -/
def commandEdge (s : State) (inp : Inputs s.cfg) : Host.Outcome State Fault Refusal :=
  if inp.cmdValid then
    match decode inp.command with
    | .ok i => exec i s
    | .error _ => .next { s with regs := s.regs.raiseIllegalCmd inp.cmdCtrl }
  else .next s

/-- One rising edge of `clk` (R153). Reset dominates (R191); the two channels exclude each other (R140, R177). -/
def edge (s : State) (inp : Inputs s.cfg) : Host.Outcome State Fault Refusal :=
  if inp.rst then .next s.resetEdge
  else if s.regs.busy then .next { s with regs := s.regs.outputEdge inp.outReady }
  else commandEdge s inp

/-- After the edge the cycle's inputs are used up. -/
def passCycle : Host.Outcome State Fault Refusal → Host.Outcome State Fault Refusal
  | .next t => .next t.nextCycle
  | .fault f => .fault f
  | .refused r => .refused r

end Sys2Proof.Machine
end

