-- ==== Sys2Proof/Machine/Step.lean ====
section
/-! DEFINITION. One step: the edge that ends the current cycle, with that cycle's inputs (R21). -/

namespace Sys2Proof.Machine

/-- One step per rising edge of `clk` (R21, R153). The current cycle's inputs are used up by it. -/
def step (s : State) : Host.Outcome State Fault Refusal := passCycle (edge s s.currentInputs)

/-- The state in which the producer presents the command whose packed bits are the low `nbits` bits of `w` in the
coming cycle, with `rst` = 0, and the block is idle, so that the next step accepts it (R142; log 4). Everything else
is as it was; the inputs that were listed follow one cycle later. -/
def State.withFetchWord (s : State) (nbits w : Nat) : State :=
  let cmd := Command.ofTableWord s.cfg nbits w
  { s with
    regs := { s.regs with busy := false }
    inputs := ⟨false, true, cmd.ctrl, cmd.seed, cmd.len, false⟩ :: s.inputs }

end Sys2Proof.Machine
end

