-- ==== Sys2Proof/Machine/Assembler.lean ====
section
/-! DEFINITION. The assembler's language (R78) and its pseudo-instructions (R79), on lines and on text. The hardware
has no part in it (D26). -/

namespace Sys2Proof.Machine

/-- The expansion of a pseudo-instruction (R79); every other line stands for itself. -/
def expand : AsmLine → AsmLine
  | .walk len ones => .walk len ones
  | .alt len seed => .alt len seed
  | .chk len => .chk len
  | .zo len => .zo len
  | .walk1 len => .walk len true
  | .walk0 len => .walk len false
  | .checkerboard len => .chk len
  | .zeroones len => .zo len
  | .illegal byte => .illegal byte

/-- A command with this control byte, seed and length, if the length fits (R78: 0 <= len <= 2^LW - 1). -/
def assembleFields (c : Config) (ctrl : Byte) (seed : Word) (len : Nat) : Except AsmError (Command c) :=
  if len < 2 ^ c.LW then .ok ⟨ctrl, seed, BitVec.ofNat c.LW len⟩ else .error .lengthTooLarge

/-- The table of R78 and the raw byte of R79. -/
def assemble (c : Config) (line : AsmLine) : Except AsmError (Command c) :=
  match line with
  | .walk len ones => assembleFields c (if ones then 0x04#8 else 0x00#8) 0 len
  | .alt len seed =>
    if seed ≤ (maskW c).toNat then assembleFields c 0x01#8 (BitVec.ofNat 32 seed) len else .error .seedTooLarge
  | .chk len => assembleFields c 0x02#8 0 len
  | .zo len => assembleFields c 0x03#8 0 len
  | .walk1 len => assembleFields c 0x04#8 0 len
  | .walk0 len => assembleFields c 0x00#8 0 len
  | .checkerboard len => assembleFields c 0x02#8 0 len
  | .zeroones len => assembleFields c 0x03#8 0 len
  | .illegal byte => if byte < 256 then .ok ⟨BitVec.ofNat 8 byte, 0, 0⟩ else .error .byteTooLarge

/-- A piece of a line's text. -/
inductive Token where
  | word (w : List Char)
  | comma
deriving DecidableEq, Repr

/-- The lower-case form of a letter of the mnemonics (R78: case-insensitive). -/
def lowerChar (ch : Char) : Char := if 65 ≤ ch.toNat ∧ ch.toNat ≤ 90 then Char.ofNat (ch.toNat + 32) else ch

/-- The word read so far, if it has a letter. -/
def flushWord (cur : List Char) : List Token := if cur = [] then [] else [.word cur.reverse]

/-- A line cut at white space and commas, in lower case; `cur` is the word being read, backwards (log 14). -/
def tokenize (cur : List Char) : List Char → List Token
  | [] => flushWord cur
  | ch :: rest =>
    if ch = ' ' ∨ ch = '\t' then flushWord cur ++ tokenize [] rest
    else if ch = ',' then flushWord cur ++ .comma :: tokenize [] rest
    else tokenize (lowerChar ch :: cur) rest

/-- The value of a lower-case digit in base 16. -/
def digitValue (ch : Char) : Option Nat :=
  if 48 ≤ ch.toNat ∧ ch.toNat ≤ 57 then some (ch.toNat - 48)
  else if 97 ≤ ch.toNat ∧ ch.toNat ≤ 102 then some (ch.toNat - 87)
  else none

/-- The value of digits in `base`, above the value read so far. -/
def digitsValue (base acc : Nat) : List Char → Option Nat
  | [] => some acc
  | ch :: rest =>
    match digitValue ch with
    | some d => if d < base then digitsValue base (base * acc + d) rest else none
    | none => none

/-- A decimal or 0x hex literal (R78). -/
def literalValue : List Char → Option Nat
  | [] => none
  | '0' :: 'x' :: [] => none
  | '0' :: 'x' :: ds => digitsValue 16 0 ds
  | ds => digitsValue 10 0 ds

/-- A line `<mnemonic> <literal>`. -/
def parseOne (m : List Char) (n : Nat) : Option AsmLine :=
  if m = ['c', 'h', 'k'] then some (.chk n)
  else if m = ['z', 'o'] then some (.zo n)
  else if m = ['w', 'a', 'l', 'k', '1'] then some (.walk1 n)
  else if m = ['w', 'a', 'l', 'k', '0'] then some (.walk0 n)
  else if m = ['c', 'h', 'e', 'c', 'k', 'e', 'r', 'b', 'o', 'a', 'r', 'd'] then some (.checkerboard n)
  else if m = ['z', 'e', 'r', 'o', 'o', 'n', 'e', 's'] then some (.zeroones n)
  else if m = ['.', 'i', 'l', 'l', 'e', 'g', 'a', 'l'] then some (.illegal n)
  else none

/-- A line `<mnemonic> <len>, <second operand>`. -/
def parseTwo (m : List Char) (n : Nat) (b : List Char) : Option AsmLine :=
  if m = ['w', 'a', 'l', 'k'] then
    if b = ['o', 'n', 'e', 's'] then some (.walk n true)
    else if b = ['z', 'e', 'r', 'o', 's'] then some (.walk n false)
    else none
  else if m = ['a', 'l', 't'] then (literalValue b).map (.alt n)
  else none

/-- A line of text (R78, R79), or nothing where it has none of their forms. -/
def parseLine (text : List Char) : Option AsmLine :=
  match tokenize [] text with
  | [.word m, .word a] => (literalValue a).bind (parseOne m)
  | [.word m, .word a, .comma, .word b] => (literalValue a).bind fun n => parseTwo m n b
  | _ => none

end Sys2Proof.Machine
end

