-- ==== Sys2Proof/Machine/Bank.lean ====
section
/-! DEFINITION. Several separate instances (R57, R64, R184): each has its own registers, clock, reset input and other
ports, and none reads another's. A bank is the list of them; the one at position `k` has environment number `k`
(DESIGN CHOICE, log 10). -/

namespace Sys2Proof.Machine

/-- A bank of instances with these parameters, each right after a reset edge, in its own environment. -/
def freshBank (cs : List Config) : List State := cs.mapIdx fun k c => State.resetFor c k

/-- Instance `k` of a bank has a rising edge of its clock, with the inputs its own environment drives; a number that
names no instance changes nothing. -/
def stepInstance (k : Nat) (bank : List State) : List State :=
  match bank[k]? with
  | none => bank
  | some s =>
    match step { s with env := k } with
    | .next t => bank.set k t
    | .fault _ => bank
    | .refused _ => bank

/-- The instances have clock edges in this order. -/
def runBank (order : List Nat) (bank : List State) : List State :=
  order.foldl (fun b k => stepInstance k b) bank

end Sys2Proof.Machine
end

