-- ==== Sys2Proof/Machine/Interface.lean ====
section
/-! DEFINITION. The output ports as functions of the registers (R20, R141, R147, R148, R176), and the two handshakes
(R142, R149). -/

namespace Sys2Proof.Machine

/-- The output ports (R20). -/
structure Outputs where
  cmdReady : Bool
  outValid : Bool
  outData : Word
  outLast : Bool
  err : Bool
  errCtrl : Byte
deriving DecidableEq, Repr

/-- `out_data` (R147): 0 while idle, else the word of the unit that OP selects. -/
def Regs.outData {c : Config} (r : Regs c) : Word :=
  if r.busy then
    match r.op with
    | .walk => wbsWord r.shift r.flip r.pol
    | .alt => awmWord r.seed r.toggle
    | .chk => awmWord r.seed r.toggle
    | .zo => awmWord r.seed r.toggle
  else 0x00000000#32

/-- `out_last` (R148). -/
def Regs.outLast {c : Config} (r : Regs c) : Bool := r.busy && atLastWord r

/-- All output ports in a cycle; no input has a part in them (R20, R196). -/
def Regs.outputs {c : Config} (r : Regs c) : Outputs where
  cmdReady := !r.busy
  outValid := r.busy
  outData := r.outData
  outLast := r.outLast
  err := r.err
  errCtrl := r.errCtrl

/-- A command handshake at the edge that ends the cycle (R142). -/
def commandHandshake {c : Config} (inp : Inputs c) (r : Regs c) : Bool :=
  !inp.rst && inp.cmdValid && r.outputs.cmdReady

/-- An output handshake at the edge that ends the cycle (R149). -/
def outputHandshake {c : Config} (inp : Inputs c) (r : Regs c) : Bool :=
  !inp.rst && r.outputs.outValid && inp.outReady

/-- The word the consumer takes at the edge that ends the cycle, with its `out_last` (R149). -/
def delivery {c : Config} (inp : Inputs c) (r : Regs c) : Option (Word × Bool) :=
  if outputHandshake inp r then some (r.outputs.outData, r.outputs.outLast) else none

end Sys2Proof.Machine
end

