-- ==== Sys2Proof/Machine/NextState.lean ====
section
/-! DEFINITION. The spec's whole next-state function over the registers (R153), transcribed line for line. The machine
runs by decoding and dispatching (Edge.lean); this is the clear form a statement proves it equal to. -/

namespace Sys2Proof.Machine

/-- `step(S, in)` of R153. -/
def Regs.next {c : Config} (inp : Inputs c) (r : Regs c) : Regs c :=
  if inp.rst then Regs.reset c
  else if r.busy = false then
    if inp.cmdValid then
      if legal inp.cmdCtrl = false then
        { r with
          errCtrl := if r.err = false then inp.cmdCtrl else r.errCtrl
          err := true }
      else
        let op := Opcode.ofBits (opcField inp.cmdCtrl)
        { r with
          op := op
          pol := if opcField inp.cmdCtrl = 0b00#2 then inp.cmdCtrl.getLsbD 2 else false
          seed := effSeed c op inp.cmdSeed
          len := inp.cmdLen
          idx := 0
          shift := 0
          flip := false
          toggle := true
          busy := decide (inp.cmdLen ≠ 0) }
    else r
  else if inp.outReady then
    if r.idx = r.len - 1 then { r with busy := false }
    else
      { r with
        idx := r.idx + 1
        shift := BitVec.ofNat c.SW ((r.shift.toNat + 1) % c.W)
        flip := xor r.flip (decide (r.shift.toNat = c.W - 1))
        toggle := !r.toggle }
  else r

end Sys2Proof.Machine
end

