-- ==== Sys2Proof/Machine/Reference.lean ====
section
/-! DEFINITION. The source's functions: what words a command stands for, written from its index alone (R108, R112,
R125). The machine does not use them; statements compare it with them. -/

namespace Sys2Proof.Machine

/-- `walk_elem(i, pol)` (R108). -/
def walkElem (c : Config) (i : Nat) (pol : Bool) : Word :=
  let shift := i % c.W
  let flip := (i / c.W) % 2 == 1
  let raw := if i % (2 * c.W) = 0 then 1#c.W else if !flip then 1#c.W <<< shift else topW c >>> shift
  let v := if pol then raw else ~~~raw
  zextC (v &&& maskW c)

/-- `walk_elem` without step 3, the anchor (R109). -/
def walkElemNoAnchor (c : Config) (i : Nat) (pol : Bool) : Word :=
  let shift := i % c.W
  let flip := (i / c.W) % 2 == 1
  let raw := if !flip then 1#c.W <<< shift else topW c >>> shift
  let v := if pol then raw else ~~~raw
  zextC (v &&& maskW c)

/-- `walk_seq(len, pol)` (R108). -/
def walkSeq (c : Config) (len : Nat) (pol : Bool) : List Word := (List.range len).map fun i => walkElem c i pol

/-- The position of the walking bit at index `i` (R112). -/
def walkPos (c : Config) (i : Nat) : Nat :=
  if (i / c.W) % 2 = 0 then i % c.W else c.W - 1 - i % c.W

/-- `alt_elem(i, seed)` (R125). -/
def altElem (c : Config) (i : Nat) (seed : BitVec c.W) : Word :=
  zextC ((if i % 2 = 0 then seed else ~~~seed) &&& maskW c)

/-- `alt_seq(len, seed)` (R125). -/
def altSeq (c : Config) (len : Nat) (seed : BitVec c.W) : List Word := (List.range len).map fun i => altElem c i seed

/-- The source's sequence for a command (R155). -/
def commandWords (c : Config) : Instr → List Word
  | .walk pol len => walkSeq c len pol
  | .alt seed len => altSeq c len (seedLow c seed)
  | .chk len => altSeq c len (chkW c)
  | .zo len => altSeq c len 0

/-- A sequence as the output stream carries it: each word with its `out_last`, set on the last one (R148). -/
def withLast (ws : List Word) : List (Word × Bool) := ws.mapIdx fun k w => (w, decide (k + 1 = ws.length))

end Sys2Proof.Machine
end

