-- ==== Sys2Proof/Safety.lean ====
section
/-! DEFINITION. What statements about runs are said in: the invariants (R154), reachability, the words delivered, the
cycles in which the consumer is ready, a run without reset. -/

namespace Sys2Proof.Machine

/-- The invariants of R154, in its order; item 6 and item 7 have two parts each. -/
structure Regs.Inv {c : Config} (r : Regs c) : Prop where
  busy_bounds : r.busy = true → 1 ≤ r.len.toNat ∧ r.idx.toNat ≤ r.len.toNat - 1
  shift_eq : r.shift.toNat = r.idx.toNat % c.W
  flip_eq : r.flip = decide ((r.idx.toNat / c.W) % 2 = 1)
  toggle_eq : r.toggle = decide (r.idx.toNat % 2 = 0)
  pol_zero : r.op ≠ .walk → r.pol = false
  seed_zero : r.op = .walk ∨ r.op = .zo → r.seed = 0
  seed_chk : r.op = .chk → r.seed = chkW c
  err_clear : r.err = false → r.errCtrl = 0x00#8
  err_illegal : r.err = true → legal r.errCtrl = false

/-- The invariants of a state are those of its registers. -/
def State.Inv (s : State) : Prop := s.regs.Inv

/-- A state that some instance reaches from RESET_STATE, under some inputs (R154). -/
inductive Reachable : State → Prop where
  | reset (s : State) : Reachable s.resetEdge
  | step {s t : State} : Reachable s → Machine.step s = .next t → Reachable t

/-- A run of `n` edges ends in a state. -/
def SafeRun (n : Nat) (s : State) : Prop := ∃ t, Sys2Proof.core.run n s = .next t

/-- The words handshaken at the next `n` edges, with their `out_last`, in order (R149). -/
def delivered : Nat → State → List (Word × Bool)
  | 0, _ => []
  | n + 1, s =>
    match step s with
    | .next t => (delivery s.currentInputs s.regs).toList ++ delivered n t
    | .fault _ => []
    | .refused _ => []

/-- How many of the next `n` cycles have `out_ready` = 1. -/
def readyCycles (n : Nat) (s : State) : Nat := (List.range n).countP fun k => (s.inputsAt k).outReady

/-- None of the next `n` cycles has `rst` = 1. -/
def NoReset (n : Nat) (s : State) : Prop := ∀ k, k < n → (s.inputsAt k).rst = false

end Sys2Proof.Machine
end

