-- ==== Sys2Proof/Certificates/Slice0/Obligations.lean ====
section
/-! DEFINITION. The statements about the model, from the numbered rules of spec/. Each holds for every instance (every
W and LW) and, unless it says otherwise, in every state, reached or not. -/

open Sys2Proof Sys2Proof.Machine

/-! ### Encoding -/

/-- Decoding the encoded word of a well-formed command gives the command back, every operand whole. -/
def Obligations.DecodeOfEncodedWordIsTheCommand : Prop :=
  ∀ (c : Config) (i : Instr), i.wellFormed c = true → decodeWord c (encodeWord c i) = .ok i

/-- A decoded command is well formed, and encoding it gives back the control byte, the length, and the SEED field where
the block reads it (R72); elsewhere the encoder writes the assembler's 0 (R78; log 12). -/
def Obligations.EncodeOfDecodedCommandKeepsItsFields : Prop :=
  ∀ (c : Config) (cmd : Command c) (i : Instr), decode cmd = .ok i →
    i.wellFormed c = true ∧
    encode c i = ⟨cmd.ctrl, if cmd.ctrl.extractLsb' 0 2 = 0b01#2 then cmd.seed else 0, cmd.len⟩

/-- R74: the complete decode of the 256 control bytes, of which 5 are legal and 251 are not. -/
def Obligations.DecodeOfEveryControlByte : Prop :=
  (∀ (c : Config) (ctrl : Byte) (seed : Word) (len : BitVec c.LW),
    (ctrl = 0x00#8 → decode (⟨ctrl, seed, len⟩ : Command c) = .ok (.walk false len.toNat)) ∧
    (ctrl = 0x04#8 → decode (⟨ctrl, seed, len⟩ : Command c) = .ok (.walk true len.toNat)) ∧
    (ctrl = 0x01#8 → decode (⟨ctrl, seed, len⟩ : Command c) = .ok (.alt seed len.toNat)) ∧
    (ctrl = 0x02#8 → decode (⟨ctrl, seed, len⟩ : Command c) = .ok (.chk len.toNat)) ∧
    (ctrl = 0x03#8 → decode (⟨ctrl, seed, len⟩ : Command c) = .ok (.zo len.toNat)) ∧
    (ctrl = 0x05#8 ∨ ctrl = 0x06#8 ∨ ctrl = 0x07#8 →
      decode (⟨ctrl, seed, len⟩ : Command c) = .error .polaritySetWithoutWalk) ∧
    (8 ≤ ctrl.toNat → decode (⟨ctrl, seed, len⟩ : Command c) = .error .reservedBitsSet)) ∧
  ((List.range 256).countP fun n => legal (BitVec.ofNat 8 n)) = 5 ∧
  ((List.range 256).countP fun n => !legal (BitVec.ofNat 8 n)) = 251

/-- R77: the decode function. A control byte that is not legal decodes to nothing; a legal one to the command its OPC names,
WALK with the polarity `cmd_ctrl[2]`. Legality is R71's: RSV = 0, and OPC = 0b00 or P = 0. -/
def Obligations.DecodeFollowsLegalityAndOpcode : Prop :=
  ∀ (c : Config) (cmd : Command c),
    (legal cmd.ctrl = true ↔ cmd.ctrl.toNat / 8 = 0 ∧ (cmd.ctrl.toNat % 4 = 0 ∨ cmd.ctrl.getLsbD 2 = false)) ∧
    (legal cmd.ctrl = false → ∃ e, decode cmd = .error e) ∧
    (legal cmd.ctrl = true →
      (cmd.ctrl.toNat % 4 = 0 → decode cmd = .ok (.walk (cmd.ctrl.getLsbD 2) cmd.len.toNat)) ∧
      (cmd.ctrl.toNat % 4 = 1 → decode cmd = .ok (.alt cmd.seed cmd.len.toNat)) ∧
      (cmd.ctrl.toNat % 4 = 2 → decode cmd = .ok (.chk cmd.len.toNat)) ∧
      (cmd.ctrl.toNat % 4 = 3 → decode cmd = .ok (.zo cmd.len.toNat)))

/-- Every row of the opcode table covers exactly the control bytes that decode to its command. -/
def Obligations.OpcodeTableAgreesWithTheDecoder : Prop :=
  ∀ (c : Config) (cmd : Command c), ∀ row ∈ opcodeTable,
    (row.covers cmd.ctrl = true ↔ ∃ i, decode cmd = .ok i ∧ i.opcode = row.opcode)

/-- Packed words written out by hand from R66 and R74 (LW = 32) decode to the commands of R78. -/
def Obligations.SampleWordsDecode : Prop :=
  decodeWord Config.reference 0x000000050000000004#72 = .ok (.walk true 5) ∧
  decodeWord Config.reference 0x000000140000000000#72 = .ok (.walk false 20) ∧
  decodeWord Config.reference 0x0000000300000FF001#72 = .ok (.alt 0x0FF0#32 3) ∧
  decodeWord Config.reference 0x000000020000000002#72 = .ok (.chk 2) ∧
  decodeWord Config.reference 0x000000020000000003#72 = .ok (.zo 2) ∧
  decodeWord Config.reference 0x000000000000000085#72 = .error .reservedBitsSet

/-! ### The commands at the accept edge -/

/-- WALK on an idle block: the accept lines of R107. -/
def Obligations.WalkIsLatched : Prop :=
  ∀ (s : State) (pol : Bool) (len : Nat), s.regs.busy = false → len < 2 ^ s.cfg.LW →
    exec (.walk pol len) s = .next { s with regs := { s.regs with
      op := .walk, pol := pol, seed := 0, len := BitVec.ofNat s.cfg.LW len,
      idx := 0, shift := 0, flip := false, toggle := true, busy := decide (len ≠ 0) } }

/-- ALT on an idle block: the accept lines of R122; seed bits W and above are dropped (R72). -/
def Obligations.AltIsLatched : Prop :=
  ∀ (s : State) (seed : Word) (len : Nat), s.regs.busy = false → len < 2 ^ s.cfg.LW →
    exec (.alt seed len) s = .next { s with regs := { s.regs with
      op := .alt, pol := false, seed := seed.setWidth s.cfg.W, len := BitVec.ofNat s.cfg.LW len,
      idx := 0, shift := 0, flip := false, toggle := true, busy := decide (len ≠ 0) } }

/-- CHK on an idle block: the accept lines of R123, with the seed 0xAAAA at W = 16 and 0xAAAAAAAA at W = 32 (R121). -/
def Obligations.ChkIsLatched : Prop :=
  ∀ (s : State) (len : Nat), s.regs.busy = false → len < 2 ^ s.cfg.LW →
    exec (.chk len) s = .next { s with regs := { s.regs with
      op := .chk, pol := false, seed := BitVec.ofNat s.cfg.W 0xAAAAAAAA, len := BitVec.ofNat s.cfg.LW len,
      idx := 0, shift := 0, flip := false, toggle := true, busy := decide (len ≠ 0) } }

/-- ZO on an idle block: the accept lines of R124. -/
def Obligations.ZoIsLatched : Prop :=
  ∀ (s : State) (len : Nat), s.regs.busy = false → len < 2 ^ s.cfg.LW →
    exec (.zo len) s = .next { s with regs := { s.regs with
      op := .zo, pol := false, seed := 0, len := BitVec.ofNat s.cfg.LW len,
      idx := 0, shift := 0, flip := false, toggle := true, busy := decide (len ≠ 0) } }

/-- The frame of the four commands: whatever a command that gives a next state does, it does to the registers only, and
ERR and ERR_CTRL are not written (R107, R122 to R124 "ERR and ERR_CTRL are not written"). -/
def Obligations.CommandsLeaveErrorAndInputsAlone : Prop :=
  ∀ (i : Instr) (s t : State), exec i s = .next t →
    ∃ r : Regs s.cfg, t = { s with regs := r } ∧ r.err = s.regs.err ∧ r.errCtrl = s.regs.errCtrl

/-- A well-formed command offered while BUSY = 1 waits with none of its effect (R146; the model's form of it, log 5). -/
def Obligations.CommandWaitsWhileBusy : Prop :=
  ∀ (i : Instr) (s : State), i.wellFormed s.cfg = true → s.regs.busy = true → exec i s = .next s

/-- A length that LW bits do not hold is refused, busy or idle (R10; U2 "lengths >= 2^LW are `refuse`"). -/
def Obligations.UnrepresentableLengthIsRefused : Prop :=
  ∀ (i : Instr) (s : State), 2 ^ s.cfg.LW ≤ i.len → exec i s = .refused (.lengthNotRepresentable i.len)

/-! ### One step -/

/-- A step runs the decoded command: when the command handshake occurs and the ports' command decodes to `i`, the step is
`exec i` on that state, after which the current cycle's inputs are used up. -/
def Obligations.StepRunsTheDecodedCommand : Prop :=
  ∀ (s : State) (i : Instr), commandHandshake s.currentInputs s.regs = true →
    decode s.currentInputs.command = .ok i →
    ∀ t, exec i s = .next t → step s = .next { t with inputs := t.inputs.tail, cycle := t.cycle + 1 }

/-- R153: the step, which decodes and dispatches, is the spec's whole next-state function on the registers. The cycle's
inputs are used up and the cycle number goes up by one (the model's own, log 2 and 3); nothing else of the state
changes. -/
def Obligations.StepIsTheNextStateFunction : Prop :=
  ∀ s : State, step s = .next ⟨s.cfg, s.regs.next s.currentInputs, s.inputs.tail, s.cycle + 1, s.env⟩

/-- No run ever faults, sticks or refuses. -/
def Obligations.EveryRunIsSafe : Prop := ∀ (n : Nat) (s : State), SafeRun n s

/-- The inputs `k` cycles after a step are those `k + 1` cycles before it (the model's own queue of inputs, log 2). -/
def Obligations.StepUsesUpOneCycleOfInputs : Prop :=
  ∀ (s t : State), step s = .next t → t.cfg = s.cfg ∧ t.cycle = s.cycle + 1 ∧ t.env = s.env ∧
    ∀ k, HEq (t.inputsAt k) (s.inputsAt (k + 1))

/-- R143: the legal accept. -/
def Obligations.LegalAcceptLatchesTheCommand : Prop :=
  ∀ s : State, commandHandshake s.currentInputs s.regs = true → legal s.currentInputs.cmdCtrl = true →
    ∃ op : Opcode, op.bits = s.currentInputs.cmdCtrl.extractLsb' 0 2 ∧
      step s = .next ⟨s.cfg, { s.regs with
        op := op
        pol := if op.bits = 0b00#2 then s.currentInputs.cmdCtrl.getLsbD 2 else false
        seed := effSeed s.cfg op s.currentInputs.cmdSeed
        len := s.currentInputs.cmdLen
        idx := 0, shift := 0, flip := false, toggle := true
        busy := decide (s.currentInputs.cmdLen ≠ 0) }, s.inputs.tail, s.cycle + 1, s.env⟩

/-- R144: a legal command of length 0 is accepted and latched, BUSY stays 0, no word is offered, and the block can accept
the next command in the next cycle. -/
def Obligations.ZeroLengthCommandEmitsNothing : Prop :=
  ∀ s : State, commandHandshake s.currentInputs s.regs = true → legal s.currentInputs.cmdCtrl = true →
    s.currentInputs.cmdLen = 0 →
    ∃ r : Regs s.cfg, step s = .next ⟨s.cfg, r, s.inputs.tail, s.cycle + 1, s.env⟩ ∧
      r = s.regs.latch (Opcode.ofBits (opcField s.currentInputs.cmdCtrl))
        (if opcField s.currentInputs.cmdCtrl = 0b00#2 then s.currentInputs.cmdCtrl.getLsbD 2 else false)
        (effSeed s.cfg (Opcode.ofBits (opcField s.currentInputs.cmdCtrl)) s.currentInputs.cmdSeed) 0 ∧
      r.busy = false ∧ r.outputs.outValid = false ∧ r.outputs.cmdReady = true

/-- R145, R172, R173: the illegal accept. ERR is set, ERR_CTRL takes the byte if ERR was 0, no other register changes, no
word is delivered at the edge or offered after it, and the block is ready in the next cycle. -/
def Obligations.IllegalCommandIsRecordedAndDropped : Prop :=
  ∀ s : State, commandHandshake s.currentInputs s.regs = true → legal s.currentInputs.cmdCtrl = false →
    ∃ r : Regs s.cfg, step s = .next ⟨s.cfg, r, s.inputs.tail, s.cycle + 1, s.env⟩ ∧
      r = { s.regs with err := true, errCtrl := if s.regs.err then s.regs.errCtrl else s.currentInputs.cmdCtrl } ∧
      delivery s.currentInputs s.regs = none ∧ r.outputs.outValid = false ∧ r.outputs.cmdReady = true

/-- R146: while BUSY = 1 no command is accepted, the command ports have no effect on the step, and without reset SEED, LEN,
OP and POL keep the values latched at accept. -/
def Obligations.CommandPortsAreIgnoredWhileBusy : Prop :=
  ∀ (c : Config) (r : Regs c) (inp inp' : Inputs c) (rest : List (Inputs c)) (n env : Nat), r.busy = true →
    r.outputs.cmdReady = false ∧ commandHandshake inp r = false ∧
    (inp.rst = inp'.rst → inp.outReady = inp'.outReady →
      step ⟨c, r, inp :: rest, n, env⟩ = step ⟨c, r, inp' :: rest, n, env⟩) ∧
    (inp.rst = false → ∃ r' : Regs c, step ⟨c, r, inp :: rest, n, env⟩ = .next ⟨c, r', rest, n + 1, env⟩ ∧
      r'.seed = r.seed ∧ r'.len = r.len ∧ r'.op = r.op ∧ r'.pol = r.pol)

/-- R150: the word advance. -/
def Obligations.WordAdvance : Prop :=
  ∀ s : State, outputHandshake s.currentInputs s.regs = true → s.regs.idx ≠ s.regs.len - 1 →
    ∃ shift : BitVec s.cfg.SW, shift.toNat = (s.regs.shift.toNat + 1) % s.cfg.W ∧
      step s = .next ⟨s.cfg, { s.regs with
        idx := s.regs.idx + 1
        shift := shift
        flip := xor s.regs.flip (decide (s.regs.shift.toNat = s.cfg.W - 1))
        toggle := !s.regs.toggle }, s.inputs.tail, s.cycle + 1, s.env⟩

/-- The handshake of the last word clears BUSY and changes no other register; the block is idle and ready from the next
cycle, in which no word can be taken (R151, R199). -/
def Obligations.LastWordCompletesTheSequence : Prop :=
  ∀ s : State, outputHandshake s.currentInputs s.regs = true → s.regs.outputs.outLast = true →
    ∃ r : Regs s.cfg, step s = .next ⟨s.cfg, r, s.inputs.tail, s.cycle + 1, s.env⟩ ∧ r = { s.regs with busy := false } ∧
      r.outputs.cmdReady = true ∧ r.outputs.outValid = false ∧ ∀ inp : Inputs s.cfg, delivery inp r = none

/-- R152: in a cycle with BUSY = 1, `out_ready` = 0 and no reset, no register changes, so the outputs hold. -/
def Obligations.HoldWithoutReady : Prop :=
  ∀ s : State, s.regs.busy = true → s.currentInputs.outReady = false → s.currentInputs.rst = false →
    ∃ r : Regs s.cfg, step s = .next ⟨s.cfg, r, s.inputs.tail, s.cycle + 1, s.env⟩ ∧ r = s.regs ∧ r.outputs = s.regs.outputs

/-- R190, R191: a reset edge leaves RESET_STATE from whatever state under whatever other inputs; there is no handshake at
it; the outputs after it are those of the first cycle after reset, and the invariants hold. -/
def Obligations.ResetEdgeLeavesResetState : Prop :=
  ∀ s : State, s.currentInputs.rst = true →
    commandHandshake s.currentInputs s.regs = false ∧ outputHandshake s.currentInputs s.regs = false ∧
    ∃ r : Regs s.cfg, step s = .next ⟨s.cfg, r, s.inputs.tail, s.cycle + 1, s.env⟩ ∧
      r.busy = false ∧ r.op.bits = 0b00#2 ∧ r.pol = false ∧ r.seed.toNat = 0 ∧ r.len.toNat = 0 ∧ r.idx.toNat = 0 ∧
      r.shift.toNat = 0 ∧ r.flip = false ∧ r.toggle = true ∧ r.err = false ∧ r.errCtrl = 0x00#8 ∧
      r.outputs = ⟨true, false, 0x00000000#32, false, false, 0x00#8⟩ ∧ r.Inv

/-- R177: reset overrides both handshakes and ILLEGAL_CMD, the two handshakes never occur at one edge, and ILLEGAL_CMD is the
only cause. -/
def Obligations.HandshakesExcludeEachOther : Prop :=
  (∀ (c : Config) (inp : Inputs c) (r : Regs c),
    (commandHandshake inp r && outputHandshake inp r) = false ∧
    (inp.rst = true → commandHandshake inp r = false ∧ outputHandshake inp r = false)) ∧
  (∀ s t : State, s.currentInputs.rst = true → step s = .next t → t.regs.err = false ∧ t.regs.cause = none) ∧
  ∀ k : Cause, k = .illegalCmd

/-- R32, R33: ERR is set exactly by the accept of an illegal command and ERR_CTRL written exactly by the first one, reset
alone clears them, and they drive the ports. -/
def Obligations.ErrorRegistersChangeOnlyOnIllegalAccept : Prop :=
  ∀ s t : State, step s = .next t →
    let illegal := commandHandshake s.currentInputs s.regs && !legal s.currentInputs.cmdCtrl
    (s.currentInputs.rst = true → t.regs.err = false ∧ t.regs.errCtrl = 0x00#8) ∧
    (s.currentInputs.rst = false →
      t.regs.err = (s.regs.err || illegal) ∧
      t.regs.errCtrl = (if illegal && !s.regs.err then s.currentInputs.cmdCtrl else s.regs.errCtrl)) ∧
    t.regs.outputs.err = t.regs.err ∧ t.regs.outputs.errCtrl = t.regs.errCtrl

/-- OP, POL, SEED and LEN are written by a legal accept and by reset, and by nothing else (R24 to R27). -/
def Obligations.OnlyLegalAcceptWritesTheLatchedCommand : Prop :=
  ∀ s : State, s.currentInputs.rst = false →
    (commandHandshake s.currentInputs s.regs && legal s.currentInputs.cmdCtrl) = false →
    ∃ r : Regs s.cfg, step s = .next ⟨s.cfg, r, s.inputs.tail, s.cycle + 1, s.env⟩ ∧
      r.op = s.regs.op ∧ r.pol = s.regs.pol ∧ r.seed = s.regs.seed ∧ r.len = s.regs.len

/-- Without reset, BUSY rises exactly at a legal accept of a non-zero length and falls exactly at the handshake of the
last word (R23, R140, R156). -/
def Obligations.BusyChangesOnlyAtAcceptAndLastWord : Prop :=
  ∀ s t : State, step s = .next t → s.currentInputs.rst = false →
    ((s.regs.busy = false ∧ t.regs.busy = true) ↔
      (commandHandshake s.currentInputs s.regs = true ∧ legal s.currentInputs.cmdCtrl = true ∧
        s.currentInputs.cmdLen ≠ 0)) ∧
    ((s.regs.busy = true ∧ t.regs.busy = false) ↔
      (outputHandshake s.currentInputs s.regs = true ∧ s.regs.outputs.outLast = true))

/-- Inputs the edge does not sample have no effect (R142, R193): all but `rst` at a reset edge; the command fields while
`cmd_valid` = 0; `out_ready` while BUSY = 0. -/
def Obligations.UnsampledInputsHaveNoEffect : Prop :=
  ∀ (c : Config) (r : Regs c) (inp inp' : Inputs c) (rest : List (Inputs c)) (n env : Nat), inp.rst = inp'.rst →
    (inp.rst = true ∨
      (r.busy = false ∧ inp.cmdValid = false ∧ inp'.cmdValid = false) ∨
      (r.busy = false ∧ inp.cmdValid = inp'.cmdValid ∧ inp.command = inp'.command)) →
    step ⟨c, r, inp :: rest, n, env⟩ = step ⟨c, r, inp' :: rest, n, env⟩

/-! ### Outputs and words -/

/-- R141, R147, R176: the output ports as functions of the registers (`out_last` as R148 gives it); a command is accepted
exactly when the block is idle. -/
def Obligations.OutputPortsFollowTheRegisters : Prop :=
  ∀ (c : Config) (inp : Inputs c) (r : Regs c),
    r.outputs.cmdReady = !r.busy ∧
    (inp.rst = false → inp.cmdValid = true → (commandHandshake inp r = true ↔ r.busy = false)) ∧
    r.outputs.outValid = r.busy ∧
    (r.busy = false → r.outputs.outData = 0x00000000#32) ∧
    (r.busy = true → r.op.bits = 0b00#2 → r.outputs.outData = wbsWord r.shift r.flip r.pol) ∧
    (r.busy = true → r.op.bits ≠ 0b00#2 → r.outputs.outData = awmWord r.seed r.toggle) ∧
    r.outputs.outLast = (r.busy && decide (r.idx = r.len - 1)) ∧
    r.outputs.err = r.err ∧ r.outputs.errCtrl = r.errCtrl

/-- R11: the derived constants at both widths. -/
def Obligations.DerivedConstants : Prop :=
  ∀ c : Config,
    (c.width = .w16 → c.W = 16 ∧ c.SW = 4 ∧ (maskW c).toNat = 0x0000FFFF ∧ (topW c).toNat = 0x00008000 ∧
      (onesW c).toNat = 0x0000FFFF ∧ (chkW c).toNat = 0x0000AAAA ∧ (chkInvW c).toNat = 0x00005555) ∧
    (c.width = .w32 → c.W = 32 ∧ c.SW = 5 ∧ (maskW c).toNat = 0xFFFFFFFF ∧ (topW c).toNat = 0x80000000 ∧
      (onesW c).toNat = 0xFFFFFFFF ∧ (chkW c).toNat = 0xAAAAAAAA ∧ (chkInvW c).toNat = 0x55555555)

/-- R9: bits 31 .. W of `out_data` are zero in every state. -/
def Obligations.BitsAboveWAreZero : Prop :=
  ∀ (c : Config) (r : Regs c) (k : Nat), c.W ≤ k → r.outputs.outData.getLsbD k = false

/-- R104: SHIFT never reaches W, and `wbs_raw` is not 0 and has exactly one bit set, bit SHIFT in a rising lap (R102) and
bit W-1-SHIFT in a falling one (R103). -/
def Obligations.WalkingWordHasExactlyOneBit : Prop :=
  ∀ (c : Config) (shift : BitVec c.SW) (flip : Bool),
    2 ^ c.SW = c.W ∧ shift.toNat < c.W ∧ wbsRaw shift flip ≠ 0 ∧
    ∀ k, (wbsRaw shift flip).getLsbD k = true ↔ k = if flip then c.W - 1 - shift.toNat else shift.toNat

/-- R120: the alternating word is the seed or its complement, masked; that is the seed XOR (TOGGLE ? 0 : ALL_ONES); bits
31 .. W are zero; and it is `out_data` whenever BUSY = 1 and OP is ALT, CHK or ZO. -/
def Obligations.AlternatingWordIsSeedXorOnes : Prop :=
  ∀ (c : Config) (seed : BitVec c.W) (toggle : Bool) (r : Regs c),
    awmWord seed toggle = ((if toggle then zextC seed else ~~~zextC seed) &&& zextC (maskW c)) ∧
    awmWord seed toggle = zextC (seed ^^^ (if toggle then 0 else onesW c)) ∧
    (∀ k, c.W ≤ k → (awmWord seed toggle).getLsbD k = false) ∧
    (r.busy = true → r.op ≠ .walk → r.outData = awmWord r.seed r.toggle)

/-- With SHIFT = i mod W and FLIP = (i div W) mod 2 the walking_bit_shifter gives the source's word of index `i`. -/
def Obligations.WalkingWordIsTheSourcesWord : Prop :=
  ∀ (c : Config) (i : Nat) (shift : BitVec c.SW) (flip pol : Bool),
    shift.toNat = i % c.W → flip = decide ((i / c.W) % 2 = 1) → wbsWord shift flip pol = walkElem c i pol

/-- With TOGGLE = 1 exactly at even `i` the alternating_word_mux gives the source's word of index `i`. -/
def Obligations.AlternatingWordIsTheSourcesWord : Prop :=
  ∀ (c : Config) (i : Nat) (seed : BitVec c.W) (toggle : Bool),
    toggle = decide (i % 2 = 0) → awmWord seed toggle = altElem c i seed

/-- R109: the anchor is redundant. -/
def Obligations.AnchorIsRedundant : Prop :=
  ∀ (c : Config) (i : Nat) (pol : Bool),
    (i % (2 * c.W) = 0 → (i / c.W) % 2 = 0 ∧ i % c.W = 0) ∧ walkElemNoAnchor c i pol = walkElem c i pol

/-- R110: the walk has period 2W, and under P = 1 every multiple of 2W carries the word 1. -/
def Obligations.WalkHasPeriodTwoW : Prop :=
  ∀ (c : Config) (i len : Nat) (pol : Bool),
    walkElem c (i + 2 * c.W) pol = walkElem c i pol ∧
    (i + 2 * c.W < len → (walkSeq c len pol)[i + 2 * c.W]? = (walkSeq c len pol)[i]?) ∧
    walkElem c (i * (2 * c.W)) true = 1

/-- R111: walking ones and walking zeros are complements within W bits. -/
def Obligations.WalkPolaritiesAreComplements : Prop :=
  ∀ (c : Config) (len i : Nat), i < len →
    (walkSeq c len true)[i]? = (walkSeq c len false)[i]?.map fun w => ~~~w &&& zextC (maskW c)

/-- R112: where the walking bit stands, for both polarities, and its way over one period. -/
def Obligations.WalkingBitPosition : Prop :=
  ∀ (c : Config) (i k : Nat),
    ((walkElem c i true).getLsbD k = true ↔ k = walkPos c i) ∧
    ((walkElem c i false).getLsbD k = true ↔ k < c.W ∧ k ≠ walkPos c i) ∧
    walkPos c i < c.W ∧
    (i < c.W → walkPos c i = i) ∧ (c.W ≤ i → i < 2 * c.W → walkPos c i = 2 * c.W - 1 - i)

/-- R127: the alternation property, for the words of an ALT command. -/
def Obligations.AltWordsAlternate : Prop :=
  ∀ (c : Config) (seed : Word) (len i : Nat), i < len →
    let ws := commandWords c (.alt seed len)
    ws[i]? = some ((if i % 2 = 0 then seed else ~~~seed) &&& zextC (maskW c)) ∧
    (i + 1 < len → ∃ a b, ws[i]? = some a ∧ ws[i + 1]? = some b ∧ a ^^^ b = zextC (maskW c)) ∧
    (i + 2 < len → ws[i + 2]? = ws[i]?)

/-! ### Whole runs -/

/-- R154 as an invariant of the step: it is kept from every state that has it. -/
def Obligations.InvariantIsKeptByEveryStep : Prop :=
  ∀ s t : State, s.Inv → step s = .next t → t.Inv

/-- The invariants hold right after reset, in every instance. -/
def Obligations.InvariantHoldsAtReset : Prop :=
  State.reset.Inv ∧ (∀ c env, (State.resetFor c env).Inv) ∧ ∀ s : State, s.resetEdge.Inv

/-- R154: the invariants hold in every state reachable from RESET_STATE. -/
def Obligations.ReachableStatesMeetTheInvariants : Prop :=
  ∀ s : State, Reachable s →
    (s.regs.busy = true → 1 ≤ s.regs.len.toNat ∧ s.regs.idx.toNat ≤ s.regs.len.toNat - 1) ∧
    s.regs.shift.toNat = s.regs.idx.toNat % s.cfg.W ∧
    s.regs.flip = decide ((s.regs.idx.toNat / s.cfg.W) % 2 = 1) ∧
    (s.regs.toggle = true ↔ s.regs.idx.toNat % 2 = 0) ∧
    (s.regs.pol = false ∨ s.regs.op.bits = 0b00#2) ∧
    (s.regs.op.bits = 0b00#2 ∨ s.regs.op.bits = 0b11#2 → s.regs.seed = 0) ∧
    (s.regs.op.bits = 0b10#2 → s.regs.seed = chkW s.cfg) ∧
    (s.regs.err = false → s.regs.errCtrl = 0x00#8) ∧
    (s.regs.err = true → legal s.regs.errCtrl = false)

/-- R28: IDX goes up by exactly 1 at a handshake that is not the last, stays below LEN, and so never wraps. -/
def Obligations.IndexNeverWraps : Prop :=
  ∀ s : State, s.Inv → outputHandshake s.currentInputs s.regs = true → s.regs.outputs.outLast = false →
    ∃ t, step s = .next t ∧ t.regs.idx.toNat = s.regs.idx.toNat + 1 ∧
      t.regs.len.toNat = s.regs.len.toNat ∧ t.regs.idx.toNat ≤ s.regs.len.toNat - 1

/-- R155: the stream a command delivers. From its accept edge, with no reset in the next `n` cycles, its words come out as
the source's sequence, each with its `out_last`, one in each cycle with `out_ready` = 1 and no other, until all are out;
until then BUSY = 1 and IDX names the next; when the last is out, BUSY = 0. Neither the pattern of `out_ready` nor the
command ports have a part in it. -/
def Obligations.DeliveredStreamIsTheSourcesSequence : Prop :=
  ∀ (s t : State) (i : Instr) (n : Nat),
    commandHandshake s.currentInputs s.regs = true → decode s.currentInputs.command = .ok i →
    step s = .next t → NoReset n t →
    (delivered n t).take i.len = (withLast (commandWords s.cfg i)).take (readyCycles n t) ∧
    ∃ u, Sys2Proof.core.run n t = .next u ∧
      (readyCycles n t < i.len → u.regs.busy = true ∧ u.regs.idx.toNat = readyCycles n t) ∧
      ((∀ m, m < n → readyCycles m t < i.len) → readyCycles n t = i.len → u.regs.busy = false)

/-- The sequences have exactly the requested length (R51, R108, R155). -/
def Obligations.CommandWordsHaveTheRequestedLength : Prop :=
  ∀ (c : Config) (i : Instr),
    (commandWords c i).length = i.len ∧ (withLast (commandWords c i)).length = i.len ∧
    ∀ k w last, (withLast (commandWords c i))[k]? = some (w, last) → (last = true ↔ k + 1 = i.len)

/-- Without reset, a command ends with its length-th output handshake, so as soon as the consumer has been ready that often;
while the consumer is never ready the block stays in EMIT, its outputs unchanged (R159, over a bounded number of cycles,
since past the listed inputs the environment is free). -/
def Obligations.CommandEndsWhenItsWordsAreTaken : Prop :=
  ∀ (s t : State) (i : Instr) (n : Nat),
    commandHandshake s.currentInputs s.regs = true → decode s.currentInputs.command = .ok i →
    step s = .next t → NoReset n t →
    (i.len ≤ readyCycles n t →
      ∃ m u, m ≤ n ∧ Sys2Proof.core.run m t = .next u ∧ u.regs.busy = false ∧ readyCycles m t = i.len) ∧
    (1 ≤ i.len → readyCycles n t = 0 →
      ∃ u, Sys2Proof.core.run n t = .next u ∧ u.regs.busy = true ∧ u.regs.outputs = t.regs.outputs)

/-- R126: CHK emits the words ALT emits with the seed CHK_W, and ZO those of ALT with the seed 0; from the same idle state
the two runs deliver the same words for ever, whatever the inputs. -/
def Obligations.PresetsEmitWhatAltEmits : Prop :=
  ∀ (s t u : State) (len n : Nat), s.regs.busy = false → len < 2 ^ s.cfg.LW →
    (exec (.chk len) s = .next t → exec (.alt (zextC (chkW s.cfg)) len) s = .next u → delivered n t = delivered n u) ∧
    (exec (.zo len) s = .next t → exec (.alt 0 len) s = .next u → delivered n t = delivered n u)

/-- R36: an idle block retains its registers until a legal command or reset, and the values it retains are not observable:
with ERR and ERR_CTRL the same, the outputs are the same, and so are all words delivered later, whatever the inputs. -/
def Obligations.RetainedValuesAreNotObservable : Prop :=
  ∀ (s : State) (r : Regs s.cfg), s.regs.busy = false → r.busy = false → r.err = s.regs.err →
    r.errCtrl = s.regs.errCtrl →
    r.outputs = s.regs.outputs ∧ (∀ n, delivered n { s with regs := r } = delivered n s) ∧
    (s.currentInputs.rst = false → (commandHandshake s.currentInputs s.regs && legal s.currentInputs.cmdCtrl) = false →
      ∃ q : Regs s.cfg, step s = .next ⟨s.cfg, q, s.inputs.tail, s.cycle + 1, s.env⟩ ∧
        q = { s.regs with err := q.err, errCtrl := q.errCtrl })

/-- What a run comes to after a reset edge does not depend on the registers before it (R64 "only on its own inputs since
its last reset"). -/
def Obligations.ResetErasesTheHistory : Prop :=
  ∀ (s : State) (r : Regs s.cfg) (k n : Nat), k < n → (s.inputsAt k).rst = true →
    Sys2Proof.core.run n { s with regs := r } = Sys2Proof.core.run n s

/-- Without reset, ERR stays set and ERR_CTRL keeps the first illegal byte over any run (R175). -/
def Obligations.ErrorIsStickyUntilReset : Prop :=
  ∀ (n : Nat) (s : State), s.regs.err = true → NoReset n s →
    ∃ t, Sys2Proof.core.run n s = .next t ∧ t.regs.err = true ∧ t.regs.errCtrl = s.regs.errCtrl

/-- An edge of one instance leaves every other instance alone, and edges of two instances commute. A bank as a list in
which one instance at a time has an edge is the model's form (DESIGN CHOICE, log 10) of the separate instances of R57,
R64 and R184. -/
def Obligations.InstancesDoNotInterfere : Prop :=
  ∀ (bank : List State) (j k : Nat), j ≠ k →
    (stepInstance j bank)[k]? = bank[k]? ∧
    stepInstance j (stepInstance k bank) = stepInstance k (stepInstance j bank)

/-! ### Instances and the assembler -/

/-- R8: W is 16 or 32 and any other value is refused; LW is 1 .. 64 (R10); what is built is right after reset. -/
def Obligations.OnlyDescribedInstancesAreBuilt : Prop :=
  ∀ w lw env : Nat,
    (1 ≤ lw ∧ lw ≤ 64 → w = 16 ∨ w = 32 →
      ∃ c : Config, c.W = w ∧ c.LW = lw ∧ instantiate w lw env = .next (State.resetFor c env)) ∧
    (1 ≤ lw ∧ lw ≤ 64 → w ≠ 16 → w ≠ 32 → instantiate w lw env = .refused (.patternWidthNotDescribed w)) ∧
    (lw = 0 ∨ 64 < lw → instantiate w lw env = .refused (.lengthWidthOutOfRange lw))

/-- R78, R79: a line with literals in range assembles to the encoding of its command, a pseudo-instruction to that of its
expansion, a raw byte to itself; a literal out of range is refused. -/
def Obligations.AssemblerEncodesItsLines : Prop :=
  ∀ (c : Config) (len seed byte : Nat) (ones : Bool),
    (len < 2 ^ c.LW →
      assemble c (.walk len ones) = .ok (encode c (.walk ones len)) ∧
      (seed < 2 ^ c.W → assemble c (.alt len seed) = .ok (encode c (.alt (BitVec.ofNat 32 seed) len))) ∧
      assemble c (.chk len) = .ok (encode c (.chk len)) ∧
      assemble c (.zo len) = .ok (encode c (.zo len))) ∧
    (expand (.walk1 len) = .walk len true ∧ expand (.walk0 len) = .walk len false ∧
      expand (.checkerboard len) = .chk len ∧ expand (.zeroones len) = .zo len ∧
      ∀ line, assemble c (expand line) = assemble c line) ∧
    (byte < 256 → assemble c (.illegal byte) = .ok ⟨BitVec.ofNat 8 byte, 0, 0⟩) ∧
    (2 ^ c.W ≤ seed → assemble c (.alt len seed) = .error .seedTooLarge) ∧
    (2 ^ c.LW ≤ len → assemble c (.walk len ones) = .error .lengthTooLarge ∧
      (seed < 2 ^ c.W → assemble c (.alt len seed) = .error .lengthTooLarge) ∧
      assemble c (.chk len) = .error .lengthTooLarge ∧ assemble c (.zo len) = .error .lengthTooLarge) ∧
    (256 ≤ byte → assemble c (.illegal byte) = .error .byteTooLarge)

/-! ### Separate instances, further -/

/-- At its edge an instance of a bank takes the next-state function's value at its own registers and its own inputs:
those listed for it, and past them what the environment of its own position drives (the model's form, log 10). -/
def Obligations.EachInstanceReadsItsOwnPorts : Prop :=
  ∀ (bank : List State) (k : Nat) (s : State), bank[k]? = some s →
    (stepInstance k bank)[k]? = some
      ⟨s.cfg, s.regs.next (s.inputs.headD (s.cfg.freeInputs k s.cycle)), s.inputs.tail, s.cycle + 1, k⟩

/-- However the clock edges of the instances interleave, an instance in its own environment comes to the state it would
come to alone after as many edges as it had, and a fresh bank has every instance so (R57, R64; the model's form, log 10). -/
def Obligations.EachInstanceRunsAsItWouldAlone : Prop :=
  (∀ (order : List Nat) (bank : List State) (k : Nat) (s : State), bank[k]? = some s → s.env = k →
    ∃ t, Sys2Proof.core.run (order.count k) s = .next t ∧ (runBank order bank)[k]? = some t) ∧
  ∀ (cs : List Config) (k : Nat) (c : Config), cs[k]? = some c →
    (freshBank cs)[k]? = some (State.resetFor c k)
end

