-- ==== Sys2Proof/Laws/Decode.lean ====
section
/-! SUPPORT. What the decoder can answer. -/

namespace Sys2Proof

variable {c : Config}

/-- The five control bytes with a meaning, each with what it decodes to (R74). -/
theorem decode_cases (cmd : Command c) :
    (∃ e, decode cmd = .error e ∧ legal cmd.ctrl = false) ∨
    ∃ i, decode cmd = .ok i ∧ legal cmd.ctrl = true ∧ i.opcode = Opcode.ofBits (opcField cmd.ctrl) ∧
      i.len = cmd.len.toNat := by
  obtain ⟨ctrl, seed, len⟩ := cmd
  have h : ∀ b : BitVec 2, b = 0b00#2 ∨ b = 0b01#2 ∨ b = 0b10#2 ∨ b = 0b11#2 := by decide
  cases hp : polField ctrl <;> by_cases hr : rsvField ctrl = 0b00000#5 <;>
    obtain ho | ho | ho | ho := h (opcField ctrl) <;>
    simp [decode, legal, Opcode.ofBits, Instr.opcode, Instr.len, hp, hr, ho]

/-- What the decoder accepts stands on the ports as a well-formed command (R73). -/
theorem decode_wellFormed {cmd : Command c} {i : Instr} (h : decode cmd = .ok i) : i.wellFormed c = true := by
  obtain ⟨e, he, -⟩ | ⟨j, hj, -, -, hl⟩ := decode_cases cmd
  · simp [he] at h
  · obtain rfl : j = i := by simpa [hj] using h
    simp [Instr.wellFormed, hl, cmd.len.isLt]

/-- The fields of the encoder's control byte are the ones the command has (R67). -/
theorem encodeCtrl_fields (i : Instr) :
    rsvField (encodeCtrl i) = 0b00000#5 ∧ Opcode.ofBits (opcField (encodeCtrl i)) = i.opcode := by
  rcases i with ⟨_ | _, _⟩ | _ | _ | _ <;> simp only [encodeCtrl, Instr.opcode] <;> decide

/-- Packing a command loses nothing (R66). -/
theorem unpack_pack (cmd : Command c) : (Command.unpack cmd.pack : Command c) = cmd := by
  obtain ⟨ctrl, seed, len⟩ := cmd
  simp only [Command.unpack, Command.pack, Command.mk.injEq]
  refine ⟨?_, ?_, ?_⟩ <;> ext k hk <;>
    simp [BitVec.getElem_extractLsb', BitVec.getLsbD_append]
  · rw [if_pos hk]
    exact BitVec.getLsbD_eq_getElem hk
  · rw [if_pos hk]
    exact BitVec.getLsbD_eq_getElem hk
  · rw [if_neg (by omega), if_neg (by omega), ← BitVec.getLsbD_eq_getElem]
    congr 1
    omega

end Sys2Proof
end

