-- ==== Sys2Proof/Laws/State.lean ====
section
/-! SUPPORT. What each update of the registers leaves in each of them, by computation, and what the updates of a state
leave in its fields. -/

namespace Sys2Proof.Machine

section Registers
variable {c : Config} (r : Regs c)

@[simp] theorem Regs.latch_busy (op : Opcode) (pol : Bool) (seed : BitVec c.W) (len : BitVec c.LW) : (r.latch op pol seed len).busy = startsBusy len := rfl
@[simp] theorem Regs.latch_op (op : Opcode) (pol : Bool) (seed : BitVec c.W) (len : BitVec c.LW) : (r.latch op pol seed len).op = op := rfl
@[simp] theorem Regs.latch_len (op : Opcode) (pol : Bool) (seed : BitVec c.W) (len : BitVec c.LW) : (r.latch op pol seed len).len = len := rfl
@[simp] theorem Regs.latch_idx (op : Opcode) (pol : Bool) (seed : BitVec c.W) (len : BitVec c.LW) : (r.latch op pol seed len).idx = 0 := rfl
@[simp] theorem Regs.latch_err (op : Opcode) (pol : Bool) (seed : BitVec c.W) (len : BitVec c.LW) : (r.latch op pol seed len).err = r.err := rfl
@[simp] theorem Regs.latch_errCtrl (op : Opcode) (pol : Bool) (seed : BitVec c.W) (len : BitVec c.LW) : (r.latch op pol seed len).errCtrl = r.errCtrl := rfl
@[simp] theorem Regs.latch_pol (op : Opcode) (pol : Bool) (seed : BitVec c.W) (len : BitVec c.LW) : (r.latch op pol seed len).pol = pol := rfl
@[simp] theorem Regs.latch_shift (op : Opcode) (pol : Bool) (seed : BitVec c.W) (len : BitVec c.LW) : (r.latch op pol seed len).shift = 0 := rfl
@[simp] theorem Regs.latch_flip (op : Opcode) (pol : Bool) (seed : BitVec c.W) (len : BitVec c.LW) : (r.latch op pol seed len).flip = false := rfl
@[simp] theorem Regs.latch_seed (op : Opcode) (pol : Bool) (seed : BitVec c.W) (len : BitVec c.LW) : (r.latch op pol seed len).seed = seed := rfl
@[simp] theorem Regs.latch_toggle (op : Opcode) (pol : Bool) (seed : BitVec c.W) (len : BitVec c.LW) : (r.latch op pol seed len).toggle = true := rfl

@[simp] theorem Regs.raiseIllegalCmd_busy (ctrl : Byte) : (r.raiseIllegalCmd ctrl).busy = r.busy := rfl
@[simp] theorem Regs.raiseIllegalCmd_op (ctrl : Byte) : (r.raiseIllegalCmd ctrl).op = r.op := rfl
@[simp] theorem Regs.raiseIllegalCmd_len (ctrl : Byte) : (r.raiseIllegalCmd ctrl).len = r.len := rfl
@[simp] theorem Regs.raiseIllegalCmd_idx (ctrl : Byte) : (r.raiseIllegalCmd ctrl).idx = r.idx := rfl
@[simp] theorem Regs.raiseIllegalCmd_err (ctrl : Byte) : (r.raiseIllegalCmd ctrl).err = true := rfl
@[simp] theorem Regs.raiseIllegalCmd_errCtrl (ctrl : Byte) : (r.raiseIllegalCmd ctrl).errCtrl = if r.err then r.errCtrl else ctrl := rfl
@[simp] theorem Regs.raiseIllegalCmd_pol (ctrl : Byte) : (r.raiseIllegalCmd ctrl).pol = r.pol := rfl
@[simp] theorem Regs.raiseIllegalCmd_shift (ctrl : Byte) : (r.raiseIllegalCmd ctrl).shift = r.shift := rfl
@[simp] theorem Regs.raiseIllegalCmd_flip (ctrl : Byte) : (r.raiseIllegalCmd ctrl).flip = r.flip := rfl
@[simp] theorem Regs.raiseIllegalCmd_seed (ctrl : Byte) : (r.raiseIllegalCmd ctrl).seed = r.seed := rfl
@[simp] theorem Regs.raiseIllegalCmd_toggle (ctrl : Byte) : (r.raiseIllegalCmd ctrl).toggle = r.toggle := rfl

@[simp] theorem Regs.advance_busy : (r.advance).busy = r.busy := rfl
@[simp] theorem Regs.advance_op : (r.advance).op = r.op := rfl
@[simp] theorem Regs.advance_len : (r.advance).len = r.len := rfl
@[simp] theorem Regs.advance_idx : (r.advance).idx = r.idx + 1 := rfl
@[simp] theorem Regs.advance_err : (r.advance).err = r.err := rfl
@[simp] theorem Regs.advance_errCtrl : (r.advance).errCtrl = r.errCtrl := rfl
@[simp] theorem Regs.advance_pol : (r.advance).pol = r.pol := rfl
@[simp] theorem Regs.advance_shift : (r.advance).shift = nextShift r.shift := rfl
@[simp] theorem Regs.advance_flip : (r.advance).flip = nextFlip r.flip r.shift := rfl
@[simp] theorem Regs.advance_seed : (r.advance).seed = r.seed := rfl
@[simp] theorem Regs.advance_toggle : (r.advance).toggle = nextToggle r.toggle := rfl

@[simp] theorem Regs.complete_busy : (r.complete).busy = false := rfl
@[simp] theorem Regs.complete_op : (r.complete).op = r.op := rfl
@[simp] theorem Regs.complete_len : (r.complete).len = r.len := rfl
@[simp] theorem Regs.complete_idx : (r.complete).idx = r.idx := rfl
@[simp] theorem Regs.complete_err : (r.complete).err = r.err := rfl
@[simp] theorem Regs.complete_errCtrl : (r.complete).errCtrl = r.errCtrl := rfl
@[simp] theorem Regs.complete_pol : (r.complete).pol = r.pol := rfl
@[simp] theorem Regs.complete_shift : (r.complete).shift = r.shift := rfl
@[simp] theorem Regs.complete_flip : (r.complete).flip = r.flip := rfl
@[simp] theorem Regs.complete_seed : (r.complete).seed = r.seed := rfl
@[simp] theorem Regs.complete_toggle : (r.complete).toggle = r.toggle := rfl

end Registers

section Reset
variable (c : Config)

@[simp] theorem Regs.reset_busy : (Regs.reset c).busy = false := rfl
@[simp] theorem Regs.reset_op : (Regs.reset c).op = .walk := rfl
@[simp] theorem Regs.reset_len : (Regs.reset c).len = 0 := rfl
@[simp] theorem Regs.reset_idx : (Regs.reset c).idx = 0 := rfl
@[simp] theorem Regs.reset_err : (Regs.reset c).err = false := rfl
@[simp] theorem Regs.reset_errCtrl : (Regs.reset c).errCtrl = 0x00#8 := rfl
@[simp] theorem Regs.reset_pol : (Regs.reset c).pol = false := rfl
@[simp] theorem Regs.reset_shift : (Regs.reset c).shift = 0 := rfl
@[simp] theorem Regs.reset_flip : (Regs.reset c).flip = false := rfl
@[simp] theorem Regs.reset_seed : (Regs.reset c).seed = 0 := rfl
@[simp] theorem Regs.reset_toggle : (Regs.reset c).toggle = true := rfl

@[simp] theorem State.resetFor_cfg (env : Nat) : (State.resetFor c env).cfg = c := rfl
@[simp] theorem State.resetFor_regs (env : Nat) : (State.resetFor c env).regs = Regs.reset c := rfl
@[simp] theorem State.resetFor_inputs (env : Nat) : (State.resetFor c env).inputs = [] := rfl
@[simp] theorem State.resetFor_cycle (env : Nat) : (State.resetFor c env).cycle = 0 := rfl
@[simp] theorem State.resetFor_env (env : Nat) : (State.resetFor c env).env = env := rfl

end Reset

section States
variable (s : State)

@[simp] theorem State.nextCycle_cfg : s.nextCycle.cfg = s.cfg := rfl
@[simp] theorem State.nextCycle_regs : s.nextCycle.regs = s.regs := rfl
@[simp] theorem State.nextCycle_inputs : s.nextCycle.inputs = s.inputs.tail := rfl
@[simp] theorem State.nextCycle_cycle : s.nextCycle.cycle = s.cycle + 1 := rfl
@[simp] theorem State.nextCycle_env : s.nextCycle.env = s.env := rfl

@[simp] theorem State.resetEdge_cfg : s.resetEdge.cfg = s.cfg := rfl
@[simp] theorem State.resetEdge_regs : s.resetEdge.regs = Regs.reset s.cfg := rfl
@[simp] theorem State.resetEdge_inputs : s.resetEdge.inputs = s.inputs := rfl
@[simp] theorem State.resetEdge_cycle : s.resetEdge.cycle = s.cycle := rfl
@[simp] theorem State.resetEdge_env : s.resetEdge.env = s.env := rfl

/-- Replacing the registers keeps the rest. -/
@[simp] theorem State.withRegs_inputsAt (r : Regs s.cfg) (k : Nat) :
    State.inputsAt { s with regs := r } k = s.inputsAt k := rfl

@[simp] theorem State.withRegs_currentInputs (r : Regs s.cfg) :
    State.currentInputs { s with regs := r } = s.currentInputs := rfl

/-- The current cycle's inputs are those 0 cycles from now. -/
theorem State.inputsAt_zero : s.inputsAt 0 = s.currentInputs := by
  simp only [State.inputsAt, State.currentInputs]
  cases s.inputs <;> rfl

/-- One cycle later, the inputs `k` cycles away are those that were `k + 1` cycles away. -/
theorem State.nextCycle_inputsAt (k : Nat) : s.nextCycle.inputsAt k = s.inputsAt (k + 1) := by
  obtain ⟨cfg, regs, inputs, cycle, env⟩ := s
  have h : cycle + 1 + k = cycle + (k + 1) := by omega
  cases inputs <;> simp [State.inputsAt, State.nextCycle, h]

end States

end Sys2Proof.Machine
end

