-- ==== Sys2Proof/Laws/Widths.lean ====
section
/-! SUPPORT. The widths of an instance and the values of width W in the 32-bit container. -/

namespace Sys2Proof.Machine

variable {c : Config}

theorem W_pos (c : Config) : 0 < c.W := by
  cases h : c.width <;> simp [Config.W, h, PatternWidth.bits]

theorem W_le (c : Config) : c.W ≤ 32 := by
  cases h : c.width <;> simp [Config.W, h, PatternWidth.bits]

/-- SHIFT counts modulo W exactly (R11, R104). -/
theorem two_pow_SW (c : Config) : 2 ^ c.SW = c.W := by
  cases h : c.width <;> simp [Config.W, Config.SW, h, PatternWidth.bits, PatternWidth.log2]

/-- A length port holds at least the count 1 (R10). -/
theorem one_lt_two_pow_LW (c : Config) : 1 < 2 ^ c.LW :=
  Nat.one_lt_two_pow (Nat.ne_of_gt c.lenWidth_pos)

theorem shift_lt (shift : BitVec c.SW) : shift.toNat < c.W := two_pow_SW c ▸ shift.isLt

/-- CHK_W's number at W = 16, closed once so that no later proof unfolds it (R11). -/
theorem repeatNibbleA_four : repeatNibbleA 4 = 0xAAAA := rfl

/-- CHK_W's number at W = 32 (R11). -/
theorem repeatNibbleA_eight : repeatNibbleA 8 = 0xAAAAAAAA := rfl

/-- A bit of MASK_W is set exactly below W (R11). -/
@[simp] theorem getLsbD_maskW (k : Nat) : (maskW c).getLsbD k = decide (k < c.W) := by
  simp only [maskW, BitVec.getLsbD_ofNat, Nat.testBit_two_pow_sub_one, Bool.and_self]

/-- A bit of TOP_W is set exactly at W - 1 (R11). -/
@[simp] theorem getLsbD_topW (k : Nat) : (topW c).getLsbD k = decide (k = c.W - 1) := by
  have := W_pos c
  simp only [topW, BitVec.getLsbD_shiftLeft, BitVec.getLsbD_one]
  by_cases h : k = c.W - 1
  · subst h; simp [this]
  · simp [h]; omega

/-- A bit in the container (R13). -/
@[simp] theorem getLsbD_zextC (v : BitVec c.W) (k : Nat) : (zextC v).getLsbD k = v.getLsbD k := by
  have := W_le c
  simp only [zextC, BitVec.getLsbD_setWidth]
  by_cases h : k < 32
  · simp [h]
  · rw [BitVec.getLsbD_of_ge v k (by omega), Bool.and_false]

/-- `SHIFT'` counts modulo W (R150). -/
@[simp] theorem nextShift_toNat (shift : BitVec c.SW) : (nextShift shift).toNat = (shift.toNat + 1) % c.W := by
  have := W_pos c
  simp only [nextShift, BitVec.toNat_ofNat, two_pow_SW]
  exact Nat.mod_mod _ _

/-- The length port holds a representable length exactly (R73). -/
theorem lenField_toNat {len : Nat} (h : len < 2 ^ c.LW) : (lenField c len).toNat = len := by
  simp only [lenField, BitVec.toNat_ofNat]
  exact Nat.mod_eq_of_lt h

/-- While LEN is not 0, IDX = LEN - 1 at LW bits says the same of the numbers (R148). -/
theorem atLastWord_iff {r : Regs c} (h : 1 ≤ r.len.toNat) :
    atLastWord r = true ↔ r.idx.toNat = r.len.toNat - 1 := by
  have hl := r.len.isLt
  have hone : (1 : BitVec c.LW).toNat = 1 := by
    simp only [BitVec.ofNat_eq_ofNat, BitVec.toNat_ofNat]
    exact Nat.mod_eq_of_lt (one_lt_two_pow_LW c)
  have hsub : (r.len - 1).toNat = r.len.toNat - 1 := by
    rw [BitVec.toNat_sub_of_le (by rw [BitVec.le_def, hone]; exact h), hone]
  simp only [atLastWord, decide_eq_true_eq, ← BitVec.toNat_inj, hsub]


end Sys2Proof.Machine
end

