-- ==== Sys2Proof/Laws/Ops.lean ====
section
/-! SUPPORT. What each shared operation can do, said once. -/

namespace Sys2Proof.Machine

variable {c : Config}

/-- The ways the output channel's edge can go (R150, R151, R152). -/
theorem Regs.outputEdge_cases (ready : Bool) (r : Regs c) :
    (ready = false ∧ r.outputEdge ready = r) ∨
    (ready = true ∧ atLastWord r = true ∧ r.outputEdge ready = r.complete) ∨
    (ready = true ∧ atLastWord r = false ∧ r.outputEdge ready = r.advance) := by
  cases ready <;> cases h : atLastWord r <;> simp [Regs.outputEdge, h]

/-- Below LEN - 1, IDX + 1 does not wrap (R28). -/
theorem Regs.advance_idx_toNat {r : Regs c} (h : r.idx.toNat + 1 < r.len.toNat) :
    r.advance.idx.toNat = r.idx.toNat + 1 := by
  have hl := r.len.isLt
  have hone : (1 : BitVec c.LW).toNat = 1 := by
    simp only [BitVec.ofNat_eq_ofNat, BitVec.toNat_ofNat]
    exact Nat.mod_eq_of_lt (one_lt_two_pow_LW c)
  rw [Regs.advance_idx, BitVec.toNat_add, hone, Nat.mod_eq_of_lt (by omega)]

/-- What a command offered to the block can come to: it waits, or it is latched, or its length is not representable. -/
theorem offerCommand_cases (op : Opcode) (pol : Bool) (f : Word) (len : Nat) (s : State) :
    (2 ^ s.cfg.LW ≤ len ∧ offerCommand op pol f len s = .refused (.lengthNotRepresentable len)) ∨
    (len < 2 ^ s.cfg.LW ∧ s.regs.busy = true ∧ offerCommand op pol f len s = .next s) ∨
    (len < 2 ^ s.cfg.LW ∧ s.regs.busy = false ∧ offerCommand op pol f len s =
      .next { s with regs := s.regs.latch op pol (effSeed s.cfg op f) (lenField s.cfg len) }) := by
  by_cases hl : len < 2 ^ s.cfg.LW
  · cases hb : s.regs.busy <;> simp [offerCommand, hl, hb]
  · exact .inl ⟨by omega, by simp [offerCommand, hl]⟩

/-- What an offered command that gives a next state leaves alone, whichever it is (R107, R122 to R124). -/
theorem offerCommand_frame {op : Opcode} {pol : Bool} {f : Word} {len : Nat} {s t : State}
    (h : offerCommand op pol f len s = .next t) :
    ∃ r : Regs s.cfg, t = { s with regs := r } ∧ r.err = s.regs.err ∧ r.errCtrl = s.regs.errCtrl := by
  obtain ⟨-, h'⟩ | ⟨-, -, h'⟩ | ⟨-, -, h'⟩ := offerCommand_cases op pol f len s
  · simp [h'] at h
  · obtain rfl : s = t := by simpa [h'] using h
    exact ⟨s.regs, rfl, rfl, rfl⟩
  · obtain rfl := by simpa [h'] using h.symm
    exact ⟨_, rfl, rfl, rfl⟩

end Sys2Proof.Machine
end

