-- ==== Sys2Proof/Laws/Interface.lean ====
section
/-! SUPPORT. When the handshakes occur, and what a word taken is. -/

namespace Sys2Proof.Machine

variable {c : Config} {inp : Inputs c} {r : Regs c}

/-- The command handshake needs an idle block, a command and no reset (R142). -/
theorem commandHandshake_iff :
    commandHandshake inp r = true ↔ inp.rst = false ∧ inp.cmdValid = true ∧ r.busy = false := by
  simp [commandHandshake, Regs.outputs, and_assoc]

/-- The output handshake needs a word offered, a ready consumer and no reset (R149). -/
theorem outputHandshake_iff :
    outputHandshake inp r = true ↔ inp.rst = false ∧ r.busy = true ∧ inp.outReady = true := by
  simp [outputHandshake, Regs.outputs, and_assoc]

/-- At a handshake the consumer takes the word the ports show. -/
theorem delivery_of_handshake (h : outputHandshake inp r = true) :
    delivery inp r = some (r.outputs.outData, r.outputs.outLast) := by
  simp [delivery, h]

/-- Without `out_ready` no word is taken. -/
theorem delivery_of_not_ready (h : inp.outReady = false) : delivery inp r = none := by
  simp [delivery, outputHandshake, h]

/-- An idle block delivers nothing. -/
theorem delivery_of_idle (h : r.busy = false) : delivery inp r = none := by
  simp [delivery, outputHandshake, Regs.outputs, h]

/-- While BUSY = 1 the output edge keeps all but BUSY and what a word advance counts (R150 to R152). -/
theorem Regs.outputEdge_frame (ready : Bool) (r : Regs c) :
    (r.outputEdge ready).op = r.op ∧ (r.outputEdge ready).pol = r.pol ∧ (r.outputEdge ready).seed = r.seed ∧
    (r.outputEdge ready).len = r.len ∧ (r.outputEdge ready).err = r.err ∧
    (r.outputEdge ready).errCtrl = r.errCtrl := by
  obtain ⟨-, h⟩ | ⟨-, -, h⟩ | ⟨-, -, h⟩ := r.outputEdge_cases ready <;> simp [h]

end Sys2Proof.Machine
end

