-- ==== Sys2Proof/Laws/PerInstr.lean ====
section
/-! SUPPORT. Facts about every command as syntax, one lemma per constructor. -/

namespace Sys2Proof.Laws

/-- The encoder's control byte is legal and is covered by the command's own row of the opcode table, and by no other
(R71, R74). -/
def EncodingInTable.Statement (i : Instr) : Prop :=
  legal (encodeCtrl i) = true ∧
    ∀ row ∈ opcodeTable, row.covers (encodeCtrl i) = (row.opcode == i.opcode)

theorem EncodingInTable.walk (pol : Bool) (len : Nat) : EncodingInTable.Statement (.walk pol len) := by
  cases pol <;> simp only [Statement, encodeCtrl, Instr.opcode] <;> decide

theorem EncodingInTable.alt (seed : Word) (len : Nat) : EncodingInTable.Statement (.alt seed len) := by
  simp only [Statement, encodeCtrl, Instr.opcode]; decide

theorem EncodingInTable.chk (len : Nat) : EncodingInTable.Statement (.chk len) := by
  simp only [Statement, encodeCtrl, Instr.opcode]; decide

theorem EncodingInTable.zo (len : Nat) : EncodingInTable.Statement (.zo len) := by
  simp only [Statement, encodeCtrl, Instr.opcode]; decide

end Sys2Proof.Laws
end

