-- ==== Sys2Proof/Laws/Step.lean ====
section
/-! SUPPORT. What one step can do, said once: the cases of R153. -/

namespace Sys2Proof.Machine

/-- A decoded command's meaning is the shared offer, with its own opcode, polarity and SEED field. -/
theorem exec_eq_offerCommand (i : Instr) (s : State) :
    exec i s = offerCommand i.opcode i.polarity (encodeSeed i) i.len s := by
  cases i <;> rfl

@[simp] theorem passCycle_next (t : State) : passCycle (.next t) = .next t.nextCycle := rfl

@[simp] theorem passCycle_refused (r : Refusal) : passCycle (.refused r) = .refused r := rfl

/-- The cycle has passed in the next state of a step, and before that the edge was taken. -/
theorem step_eq_next {s t : State} : step s = .next t ↔ ∃ u, edge s s.currentInputs = .next u ∧ t = u.nextCycle := by
  unfold step
  cases edge s s.currentInputs <;> simp [passCycle, eq_comm]

/-- An edge that gives a next state did one of these six things: reset, an output edge, nothing, recorded an illegal
command, or took up a legal one (R153). -/
theorem edge_cases {s t : State} {inp : Inputs s.cfg} (h : edge s inp = .next t) :
    (inp.rst = true ∧ t = s.resetEdge) ∨
    (inp.rst = false ∧ s.regs.busy = true ∧ t = { s with regs := s.regs.outputEdge inp.outReady }) ∨
    (inp.rst = false ∧ s.regs.busy = false ∧ inp.cmdValid = false ∧ t = s) ∨
    (inp.rst = false ∧ s.regs.busy = false ∧ inp.cmdValid = true ∧ legal inp.cmdCtrl = false ∧
      t = { s with regs := s.regs.raiseIllegalCmd inp.cmdCtrl }) ∨
    (inp.rst = false ∧ s.regs.busy = false ∧ inp.cmdValid = true ∧ legal inp.cmdCtrl = true ∧
      ∃ i, decode inp.command = .ok i ∧ exec i s = .next t) := by
  unfold edge commandEdge at h
  cases hr : inp.rst
  · cases hb : s.regs.busy
    · cases hv : inp.cmdValid
      · obtain rfl : s = t := by simpa [hr, hb, hv] using h
        simp
      · obtain ⟨e, he, hl⟩ | ⟨i, hi, hl, -, -⟩ := decode_cases inp.command
        · have hl' : legal inp.cmdCtrl = false := hl
          obtain rfl := by simpa [hr, hb, hv, he] using h.symm
          simp [hl']
        · have hl' : legal inp.cmdCtrl = true := hl
          simpa [hr, hb, hv, hi, hl'] using h
    · obtain rfl := by simpa [hr, hb] using h.symm
      simp
  · obtain rfl := by simpa [hr] using h.symm
    simp

/-- A run of `n + 1` steps is a step and then a run of `n`. -/
theorem run_succ_of_next {s t : State} (h : step s = .next t) (n : Nat) :
    Sys2Proof.core.run (n + 1) s = Sys2Proof.core.run n t := by
  have h' : Sys2Proof.core.step s = .next t := h
  simp only [Host.Core.run, h']

@[simp] theorem run_zero (s : State) : Sys2Proof.core.run 0 s = .next s := rfl

end Sys2Proof.Machine
end

