-- ==== Sys2Proof/Laws/Run.lean ====
section
/-! SUPPORT. How the words of Safety.lean go along one step: the inputs, the words delivered, the ready cycles. -/

namespace Sys2Proof.Machine

/-- After a step the inputs `k` cycles away are those that were `k + 1` cycles away, port by port where only the two
Booleans a run asks for are compared. -/
theorem step_rst_outReady {s t : State} (h : step s = .next t) (k : Nat) :
    (t.inputsAt k).rst = (s.inputsAt (k + 1)).rst ∧ (t.inputsAt k).outReady = (s.inputsAt (k + 1)).outReady := by
  obtain ⟨u, hu, rfl⟩ := step_eq_next.mp h
  have hin : ∃ r : Regs s.cfg, u = { s with regs := r } := by
    obtain ⟨-, h'⟩ | ⟨-, -, h'⟩ | ⟨-, -, -, h'⟩ | ⟨-, -, -, -, h'⟩ | ⟨-, -, -, -, i, -, h'⟩ := edge_cases hu
    · exact ⟨_, h'⟩
    · exact ⟨_, h'⟩
    · exact ⟨_, h'⟩
    · exact ⟨_, h'⟩
    · rw [exec_eq_offerCommand] at h'
      exact (offerCommand_frame h').imp fun _ h => h.1
  obtain ⟨r, rfl⟩ := hin
  exact ⟨congrArg Inputs.rst (State.nextCycle_inputsAt s k), congrArg Inputs.outReady (State.nextCycle_inputsAt s k)⟩

/-- The words of `n + 1` edges are the one of the first, if a word is taken, and those of the `n` after it. -/
theorem delivered_succ_of_next {s t : State} (h : step s = .next t) (n : Nat) :
    delivered (n + 1) s = (delivery s.currentInputs s.regs).toList ++ delivered n t := by
  rw [delivered, h]

theorem readyCycles_succ_of_next {s t : State} (h : step s = .next t) (n : Nat) :
    readyCycles (n + 1) s = (if s.currentInputs.outReady then 1 else 0) + readyCycles n t := by
  simp only [readyCycles, List.range_succ_eq_map, List.countP_cons, List.countP_map, State.inputsAt_zero,
    Function.comp_def, (step_rst_outReady h _).2, Nat.succ_eq_add_one]
  omega

theorem noReset_succ_of_next {s t : State} (h : step s = .next t) {n : Nat} (hn : NoReset (n + 1) s) :
    s.currentInputs.rst = false ∧ NoReset n t := by
  refine ⟨by have := hn 0 (by omega); rwa [State.inputsAt_zero] at this, fun k hk => ?_⟩
  rw [(step_rst_outReady h k).1]
  exact hn (k + 1) (by omega)

end Sys2Proof.Machine
end

