-- ==== Sys2Proof/Tests/Slice0.lean ====
section
/-! SUPPORT. Small tests whose expected results are the spec's own (95_test_vectors.md, 30_encoding.md), the smoke test of
WellFormed, and for every statement with hypotheses a witness that meets them. -/

namespace Sys2Proof.Tests

open Sys2Proof Sys2Proof.Machine

/-! ### Small states -/

/-- W = 16, LW = 32: the instance of most of the spec's vectors. -/
def c16 : Config := ⟨.w16, 32, by decide, by decide⟩

/-- W = 16, LW = 4: the instance of V-W6, whose largest length is 15. -/
def c4 : Config := ⟨.w16, 4, by decide, by decide⟩

def quiet (c : Config) : Inputs c := ⟨false, false, 0, 0, 0, false⟩

def ready (c : Config) : Inputs c := ⟨false, false, 0, 0, 0, true⟩

def resetting (c : Config) : Inputs c := ⟨true, true, 0x85#8, 0, 0, true⟩

def offer (c : Config) (ctrl : Byte) (seed : Word) (len : BitVec c.LW) : Inputs c := ⟨false, true, ctrl, seed, len, false⟩

def idle (c : Config) (ins : List (Inputs c)) : State := ⟨c, Regs.reset c, ins, 0, 0⟩

/-- Registers in the middle of a walk (V-S1 and its like). -/
def walking (c : Config) (len idx : BitVec c.LW) (shift : BitVec c.SW) (flip toggle : Bool) : Regs c :=
  { Regs.reset c with busy := true, op := .walk, pol := true, len := len, idx := idx, shift := shift, flip := flip, toggle := toggle }

def busy (c : Config) (len idx : BitVec c.LW) (shift : BitVec c.SW) (flip toggle : Bool) (ins : List (Inputs c)) : State :=
  ⟨c, walking c len idx shift flip toggle, ins, 0, 0⟩

/-! ### WellFormed: a length that does not fit is refused, the largest that fits is not -/

theorem test_wellFormed_refuses_walk : (Instr.walk true 16).wellFormed c4 = false := by decide

theorem test_wellFormed_refuses_alt : (Instr.alt 0x0FF0#32 16).wellFormed c4 = false := by decide

theorem test_wellFormed_refuses_chk : (Instr.chk 16).wellFormed c4 = false := by decide

theorem test_wellFormed_refuses_zo : (Instr.zo 16).wellFormed c4 = false := by decide

theorem test_wellFormed_largest : (Instr.walk false 15).wellFormed c4 = true := by decide

/-! ### Decode: words written out from R66 and R74 -/

/-- P1's `WALK 5, ONES`. -/
theorem test_decode_walk_ones : decodeWord c16 0x000000050000000004#72 = .ok (.walk true 5) := by decide

/-- P4's `WALK 20, ZEROS`. -/
theorem test_decode_walk_zeros : decodeWord c16 0x000000140000000000#72 = .ok (.walk false 20) := by decide

/-- P2's `ALT 3, 0x0FF0`. -/
theorem test_decode_alt : decodeWord c16 0x0000000300000FF001#72 = .ok (.alt 0x0FF0#32 3) := by decide

/-- V-A9: CHK with a seed field that is ignored. -/
theorem test_decode_chk : decodeWord c16 0x000000021234567802#72 = .ok (.chk 2) := by decide

/-- P1's `ZO 2`. -/
theorem test_decode_zo : decodeWord c16 0x000000020000000003#72 = .ok (.zo 2) := by decide

/-- 95_test_vectors.md 2.4: 0x0C has RSV bit 3 set, 0x07 has P with ZO. -/
theorem test_decode_illegal : decodeWord c16 0x00000000000000000C#72 = .error .reservedBitsSet ∧
    decodeWord c16 0x000000000000000007#72 = .error .polaritySetWithoutWalk := by decide

/-- P1's and P2's packed words, from the commands. -/
theorem test_encode : (encodeWord c16 (.walk true 5)).toNat = 0x000000050000000004 ∧
    (encodeWord c16 (.alt 0x0FF0#32 3)).toNat = 0x0000000300000FF001 := by decide

/-- The table's words, through the two names the host uses. -/
theorem test_tableWords : decodeTableWord 8 0x04 = some (.walk true 0) ∧ decodeTableWord 8 0x01 = some (.alt 0 0) ∧
    decodeTableWord 8 0x02 = some (.chk 0) ∧ decodeTableWord 8 0x03 = some (.zo 0) ∧ decodeTableWord 8 0x08 = none := by decide

theorem test_withFetchWord : ∃ t, step (State.reset.withFetchWord 8 0x02) = .next t ∧ t.regs.op = .chk ∧ t.regs.busy = false :=
  ⟨_, rfl, by decide⟩

/-! ### The datapaths (95_test_vectors.md 2.1, 2.3) -/

theorem test_wbsWord_falling : wbsWord (c := c16) 8 true true = 0x00000080#32 ∧ wbsWord (c := Config.reference) 16 true true = 0x00008000#32 := by
  decide

theorem test_wbsWord_zeros : wbsWord (c := c16) 0 false false = 0x0000FFFE#32 ∧ wbsWord (c := Config.reference) 31 false false = 0x7FFFFFFF#32 := by
  decide

theorem test_awmWord : awmWord (c := c16) 0x1234#16 false = 0x0000EDCB#32 ∧ awmWord (c := Config.reference) 0xDEADBEEF#32 false = 0x21524110#32 := by
  decide

/-! ### One edge each (95_test_vectors.md 2.5 and P1 to P4) -/

/-- V-S1: the falling lap starts. -/
theorem test_walk_turn : ∃ t, step (busy c16 40 15 15 false false [ready c16]) = .next t ∧
    t.regs.idx = 16 ∧ t.regs.shift.toNat = 0 ∧ t.regs.flip = true ∧ t.regs.toggle = true ∧ t.regs.outputs.outData = 0x8000#32 :=
  ⟨_, rfl, by decide⟩

/-- V-S2: back at the anchor. -/
theorem test_walk_anchor : ∃ t, step (busy c16 40 31 15 true false [ready c16]) = .next t ∧
    t.regs.idx = 32 ∧ t.regs.shift.toNat = 0 ∧ t.regs.flip = false ∧ t.regs.outputs.outData = 0x0001#32 :=
  ⟨_, rfl, by decide⟩

/-- V-S3: the last word. -/
theorem test_last_word : ∃ t, step (busy c16 3 2 2 false true [ready c16]) = .next t ∧
    t.regs.busy = false ∧ t.regs.idx = 2 ∧ t.regs.outputs.outData = 0 :=
  ⟨_, rfl, by decide⟩

/-- V-S4: hold. -/
theorem test_hold : step (busy c16 3 1 1 false false [quiet c16]) = .next ⟨c16, walking c16 3 1 1 false false, [], 1, 0⟩ := rfl

/-- V-S5: an illegal command. -/
theorem test_illegal_first : step (idle c16 [offer c16 0x85#8 0 0]) =
    .next ⟨c16, { Regs.reset c16 with err := true, errCtrl := 0x85#8 }, [], 1, 0⟩ := rfl

/-- V-S6: the first illegal byte is kept. -/
theorem test_illegal_second :
    ∃ t, step ⟨c16, { Regs.reset c16 with err := true, errCtrl := 0x85#8 }, [offer c16 0x06#8 0 0], 0, 0⟩ = .next t ∧
      t.regs.err = true ∧ t.regs.errCtrl = 0x85#8 :=
  ⟨_, rfl, by decide⟩

/-- V-S7: reset overrides both handshakes. -/
theorem test_reset : step (busy c16 3 1 1 false false [resetting c16]) = .next ⟨c16, Regs.reset c16, [], 1, 0⟩ := rfl

/-- V-S8: ALT of length 0. -/
theorem test_alt_zero_length : ∃ t, step (idle c16 [offer c16 0x01#8 0x0FF0#32 0]) = .next t ∧
    t.regs.op = .alt ∧ t.regs.seed.toNat = 0x0FF0 ∧ t.regs.toggle = true ∧ t.regs.busy = false :=
  ⟨_, rfl, by decide⟩

/-- V-A4: seed bits 31 .. 16 are ignored. -/
theorem test_alt_high_seed : ∃ t, exec (.alt 0x12340FF0#32 4) (idle c16 []) = .next t ∧ t.regs.outputs.outData = 0x0FF0#32 :=
  ⟨_, rfl, by decide⟩

/-- P2, cycle 11. -/
theorem test_chk : ∃ t, exec (.chk 2) (idle c16 []) = .next t ∧ t.regs.outputs = ⟨false, true, 0x0000AAAA#32, false, false, 0⟩ :=
  ⟨_, rfl, by decide⟩

/-- P1, cycle 8. -/
theorem test_zo : ∃ t, exec (.zo 2) (idle c16 []) = .next t ∧ t.regs.outputs = ⟨false, true, 0x00000000#32, false, false, 0⟩ :=
  ⟨_, rfl, by decide⟩

/-! ### The assembler (30_encoding.md R78, R79; V-A4's refused spelling) -/

theorem test_parse : parseLine ['W', 'a', 'l', 'k', ' ', '3', '7', ',', ' ', 'O', 'N', 'E', 'S'] = some (.walk 37 true) ∧
    parseLine ['A', 'L', 'T', ' ', '5', ',', '0', 'x', '0', 'F', 'F', '0'] = some (.alt 5 0x0FF0) ∧
    parseLine ['C', 'H', 'K'] = none := by decide

theorem test_assemble_refuses_wide_seed : assemble c16 (.alt 4 0x12340FF0) = .error .seedTooLarge := by decide

/-! ### Witnesses: a state and operands that meet every hypothesis of a statement -/

theorem witness_DecodeOfEncodedWordIsTheCommand :
    (Instr.walk true 15).wellFormed c4 = true ∧ (Instr.alt 0xFFFFFFFF#32 0).wellFormed c4 = true := by decide

theorem witness_EncodeOfDecodedCommandKeepsItsFields :
    decode (⟨0x01#8, 0x12340FF0#32, 15⟩ : Command c4) = .ok (.alt 0x12340FF0#32 15) ∧
    decode (⟨0x03#8, 0x12340FF0#32, 0⟩ : Command c4) = .ok (.zo 0) := by decide

/-- Both ends of the range of the clause on RSV. -/
theorem witness_DecodeOfEveryControlByte : 8 ≤ (0x08#8).toNat ∧ 8 ≤ (0xFF#8).toNat ∧ ¬ 8 ≤ (0x07#8).toNat := by decide

theorem witness_DecodeFollowsLegalityAndOpcode : legal 0x07#8 = false ∧ legal 0x08#8 = false ∧
    (legal 0x00#8 = true ∧ (0x00#8).toNat % 4 = 0) ∧ (legal 0x04#8 = true ∧ (0x04#8).toNat % 4 = 0) ∧
    (legal 0x01#8 = true ∧ (0x01#8).toNat % 4 = 1) ∧ (legal 0x02#8 = true ∧ (0x02#8).toNat % 4 = 2) ∧
    (legal 0x03#8 = true ∧ (0x03#8).toNat % 4 = 3) := by decide

theorem witness_OpcodeTableAgreesWithTheDecoder : (⟨"ALT", .alt, 0x01#8, 0xFF#8⟩ : OpcodeRow) ∈ opcodeTable := by decide

/-- For WalkIsLatched, AltIsLatched, ChkIsLatched and ZoIsLatched: the shortest and the longest length. -/
theorem witness_CommandsAreLatched : (idle c4 []).regs.busy = false ∧ 0 < 2 ^ (idle c4 []).cfg.LW ∧
    15 < 2 ^ (idle c4 []).cfg.LW := by decide

theorem witness_CommandsLeaveErrorAndInputsAlone : ∃ t, exec (.walk true 15) (idle c4 []) = .next t := ⟨_, rfl⟩

theorem witness_CommandWaitsWhileBusy :
    (Instr.alt 7#32 15).wellFormed (busy c4 3 1 1 false false []).cfg = true ∧ (busy c4 3 1 1 false false []).regs.busy = true := by
  decide

theorem witness_UnrepresentableLengthIsRefused : 2 ^ (idle c4 []).cfg.LW ≤ (Instr.chk 16).len := by decide

theorem witness_StepRunsTheDecodedCommand :
    commandHandshake (idle c4 [offer c4 0x04#8 0 3]).currentInputs (idle c4 [offer c4 0x04#8 0 3]).regs = true ∧
    decode (idle c4 [offer c4 0x04#8 0 3]).currentInputs.command = .ok (.walk true 3) ∧
    ∃ t, exec (.walk true 3) (idle c4 [offer c4 0x04#8 0 3]) = .next t := ⟨by decide, by decide, _, rfl⟩

/-- For StepUsesUpOneCycleOfInputs. -/
theorem witness_step : ∃ t, step (idle c4 [quiet c4]) = .next t := ⟨_, rfl⟩

/-- For LegalAcceptLatchesTheCommand and ZeroLengthCommandEmitsNothing. -/
theorem witness_legal_accept :
    commandHandshake (idle c4 [offer c4 0x01#8 9#32 0]).currentInputs (idle c4 [offer c4 0x01#8 9#32 0]).regs = true ∧
    legal (idle c4 [offer c4 0x01#8 9#32 0]).currentInputs.cmdCtrl = true ∧
    (idle c4 [offer c4 0x01#8 9#32 0]).currentInputs.cmdLen = 0 := by decide

theorem witness_IllegalCommandIsRecordedAndDropped :
    commandHandshake (idle c4 [offer c4 0x85#8 0 3]).currentInputs (idle c4 [offer c4 0x85#8 0 3]).regs = true ∧
    legal (idle c4 [offer c4 0x85#8 0 3]).currentInputs.cmdCtrl = false := by decide

theorem witness_CommandPortsAreIgnoredWhileBusy : (walking c4 3 1 1 false false).busy = true ∧
    (offer c4 0x04#8 0 3).rst = (quiet c4).rst ∧ (offer c4 0x04#8 0 3).outReady = (quiet c4).outReady ∧
    (offer c4 0x04#8 0 3).rst = false := by decide

/-- Also for IndexNeverWraps' clause on the handshake: the last index but one of the longest sequence. -/
theorem witness_WordAdvance :
    outputHandshake (busy c4 15 13 13 false false [ready c4]).currentInputs (busy c4 15 13 13 false false [ready c4]).regs = true ∧
    (busy c4 15 13 13 false false [ready c4]).regs.idx ≠ (busy c4 15 13 13 false false [ready c4]).regs.len - 1 := by decide

theorem witness_LastWordCompletesTheSequence :
    outputHandshake (busy c4 15 14 14 false true [ready c4]).currentInputs (busy c4 15 14 14 false true [ready c4]).regs = true ∧
    (busy c4 15 14 14 false true [ready c4]).regs.outputs.outLast = true := by decide

theorem witness_HoldWithoutReady : (busy c4 3 1 1 false false [quiet c4]).regs.busy = true ∧
    (busy c4 3 1 1 false false [quiet c4]).currentInputs.outReady = false ∧
    (busy c4 3 1 1 false false [quiet c4]).currentInputs.rst = false := by decide

/-- For ResetEdgeLeavesResetState, and the reset clauses of HandshakesExcludeEachOther and
ErrorRegistersChangeOnlyOnIllegalAccept. -/
theorem witness_reset_edge : (busy c4 3 1 1 false false [resetting c4]).currentInputs.rst = true ∧
    ∃ t, step (busy c4 3 1 1 false false [resetting c4]) = .next t := ⟨by decide, _, rfl⟩

/-- For the clauses without reset of ErrorRegistersChangeOnlyOnIllegalAccept and BusyChangesOnlyAtAcceptAndLastWord. -/
theorem witness_edge_without_reset : (idle c4 [offer c4 0x85#8 0 3]).currentInputs.rst = false ∧
    ∃ t, step (idle c4 [offer c4 0x85#8 0 3]) = .next t := ⟨by decide, _, rfl⟩

theorem witness_OnlyLegalAcceptWritesTheLatchedCommand : (idle c4 [offer c4 0x85#8 0 3]).currentInputs.rst = false ∧
    (commandHandshake (idle c4 [offer c4 0x85#8 0 3]).currentInputs (idle c4 [offer c4 0x85#8 0 3]).regs &&
      legal (idle c4 [offer c4 0x85#8 0 3]).currentInputs.cmdCtrl) = false := by decide

/-- Each of the three cases. -/
theorem witness_UnsampledInputsHaveNoEffect :
    ((resetting c4).rst = (⟨true, false, 1, 2, 3, false⟩ : Inputs c4).rst ∧ (resetting c4).rst = true) ∧
    ((quiet c4).rst = (⟨false, false, 1, 2, 3, true⟩ : Inputs c4).rst ∧ (Regs.reset c4).busy = false ∧ (quiet c4).cmdValid = false) ∧
    ((offer c4 1 2 3).rst = ({ offer c4 1 2 3 with outReady := true } : Inputs c4).rst ∧ (Regs.reset c4).busy = false ∧
      (offer c4 1 2 3).command = ({ offer c4 1 2 3 with outReady := true } : Inputs c4).command) := by decide

/-- Each clause: idle; busy with WALK; busy with another opcode; a command with no reset. -/
theorem witness_OutputPortsFollowTheRegisters : (Regs.reset c4).busy = false ∧
    ((walking c4 3 1 1 false false).busy = true ∧ (walking c4 3 1 1 false false).op.bits = 0b00#2) ∧
    (({ walking c4 3 1 1 false false with op := .zo } : Regs c4).busy = true ∧
      ({ walking c4 3 1 1 false false with op := .zo } : Regs c4).op.bits ≠ 0b00#2) ∧
    ((offer c4 1 2 3).rst = false ∧ (offer c4 1 2 3).cmdValid = true) := by decide

theorem witness_DerivedConstants : c16.width = .w16 ∧ Config.reference.width = .w32 := by decide

theorem witness_BitsAboveWAreZero : c16.W ≤ 16 ∧ Config.reference.W ≤ 32 := by decide

theorem witness_AlternatingWordIsSeedXorOnes : c16.W ≤ 16 ∧
    ({ walking c4 3 1 1 false false with op := .zo } : Regs c4).busy = true ∧
    ({ walking c4 3 1 1 false false with op := .zo } : Regs c4).op ≠ .walk := by decide

/-- The first index of the falling lap, and the last of it. -/
theorem witness_WalkingWordIsTheSourcesWord :
    ((0 : BitVec c16.SW).toNat = 16 % c16.W ∧ true = decide ((16 / c16.W) % 2 = 1)) ∧
    ((15 : BitVec c16.SW).toNat = 31 % c16.W ∧ true = decide ((31 / c16.W) % 2 = 1)) := by decide

theorem witness_AlternatingWordIsTheSourcesWord : true = decide (0 % 2 = 0) ∧ false = decide (1 % 2 = 0) := by decide

theorem witness_AnchorIsRedundant : 32 % (2 * c16.W) = 0 ∧ 0 % (2 * c16.W) = 0 := by decide

theorem witness_WalkHasPeriodTwoW : 0 + 2 * c16.W < 33 := by decide

theorem witness_WalkPolaritiesAreComplements : 9 < 10 := by decide

/-- The ends of the two laps. -/
theorem witness_WalkingBitPosition : 15 < c16.W ∧ (c16.W ≤ 16 ∧ 16 < 2 * c16.W) ∧ (c16.W ≤ 31 ∧ 31 < 2 * c16.W) := by decide

theorem witness_AltWordsAlternate : 2 < 5 ∧ 2 + 1 < 5 ∧ 2 + 2 < 5 := by decide

/-- A state in the middle of the longest sequence of `c4` meets the invariants. -/
theorem busy_inv : (busy c4 15 13 13 false false [ready c4]).Inv :=
  ⟨by decide, by decide, by decide, by decide, by decide, by decide, by decide, by decide, by decide⟩

/-- For InvariantIsKeptByEveryStep and IndexNeverWraps. -/
theorem witness_InvariantIsKeptByEveryStep : (busy c4 15 13 13 false false [ready c4]).Inv ∧
    (busy c4 15 13 13 false false [ready c4]).regs.outputs.outLast = false ∧
    ∃ t, step (busy c4 15 13 13 false false [ready c4]) = .next t := ⟨busy_inv, by decide, _, rfl⟩

/-- Each clause of the reachable states' invariants: a state reached by a reset edge and an accept has BUSY = 1. -/
theorem witness_ReachableStatesMeetTheInvariants : ∃ t, Reachable t ∧ t.regs.busy = true ∧ t.regs.op.bits = 0b10#2 ∧ t.regs.err = false :=
  ⟨_, .step (.reset (idle c4 [offer c4 0x02#8 0 3])) rfl, by decide, by decide, by decide⟩

theorem witness_reachable_error : ∃ t, Reachable t ∧ t.regs.err = true ∧ t.regs.op.bits = 0b00#2 :=
  ⟨_, .step (.reset (idle c4 [offer c4 0x85#8 0 3])) rfl, by decide, by decide⟩

/-- WALK of length 3 with one stalled cycle among the four that follow. -/
def streamed : State := idle c4 [offer c4 0x04#8 0 3, ready c4, quiet c4, ready c4, ready c4]

/-- For DeliveredStreamIsTheSourcesSequence and CommandEndsWhenItsWordsAreTaken: after the accept the whole command is
taken in 4 cycles, and none of them is a reset. -/
theorem witness_DeliveredStreamIsTheSourcesSequence :
    commandHandshake streamed.currentInputs streamed.regs = true ∧
    decode streamed.currentInputs.command = .ok (.walk true 3) ∧
    ∃ t, step streamed = .next t ∧ NoReset 4 t ∧ readyCycles 4 t = 3 ∧ (∀ m, m < 4 → readyCycles m t < 3) :=
  ⟨by decide, by decide, _, rfl, by unfold NoReset; decide, by decide, by decide⟩

/-- For the clause of CommandEndsWhenItsWordsAreTaken on a consumer that is never ready. -/
theorem witness_never_ready : ∃ t, step (idle c4 [offer c4 0x04#8 0 3, quiet c4, quiet c4]) = .next t ∧ NoReset 2 t ∧
    readyCycles 2 t = 0 ∧ 1 ≤ (Instr.walk true 3).len :=
  ⟨_, rfl, by unfold NoReset; decide, by decide, by decide⟩

theorem witness_CommandWordsHaveTheRequestedLength :
    (withLast (commandWords c16 (.chk 5)))[4]? = some (0xAAAA#32, true) := by decide

theorem witness_PresetsEmitWhatAltEmits : (idle c4 [ready c4]).regs.busy = false ∧ 5 < 2 ^ (idle c4 [ready c4]).cfg.LW ∧
    (∃ t u, exec (.chk 5) (idle c4 [ready c4]) = .next t ∧
      exec (.alt (zextC (chkW (idle c4 [ready c4]).cfg)) 5) (idle c4 [ready c4]) = .next u) ∧
    ∃ t u, exec (.zo 5) (idle c4 [ready c4]) = .next t ∧ exec (.alt 0 5) (idle c4 [ready c4]) = .next u :=
  ⟨by decide, by decide, ⟨_, _, rfl, rfl⟩, _, _, rfl, rfl⟩

theorem witness_RetainedValuesAreNotObservable : (idle c4 [quiet c4]).regs.busy = false ∧
    ({ walking c4 3 1 1 false false with busy := false } : Regs c4).busy = false ∧
    ({ walking c4 3 1 1 false false with busy := false } : Regs c4).err = (idle c4 [quiet c4]).regs.err ∧
    ({ walking c4 3 1 1 false false with busy := false } : Regs c4).errCtrl = (idle c4 [quiet c4]).regs.errCtrl ∧
    (idle c4 [quiet c4]).currentInputs.rst = false ∧
    (commandHandshake (idle c4 [quiet c4]).currentInputs (idle c4 [quiet c4]).regs &&
      legal (idle c4 [quiet c4]).currentInputs.cmdCtrl) = false := by decide

theorem witness_ResetErasesTheHistory : 1 < 2 ∧ ((idle c4 [ready c4, resetting c4]).inputsAt 1).rst = true := by decide

theorem witness_ErrorIsStickyUntilReset :
    (⟨c4, { Regs.reset c4 with err := true, errCtrl := 0x85#8 }, [offer c4 0x06#8 0 0, ready c4], 0, 0⟩ : State).regs.err = true ∧
    NoReset 2 ⟨c4, { Regs.reset c4 with err := true, errCtrl := 0x85#8 }, [offer c4 0x06#8 0 0, ready c4], 0, 0⟩ :=
  ⟨by decide, by unfold NoReset; decide⟩

theorem witness_InstancesDoNotInterfere : (0 : Nat) ≠ 1 := by decide

/-- Each clause at the ends of its range. -/
theorem witness_OnlyDescribedInstancesAreBuilt : (1 ≤ 1 ∧ 1 ≤ 64 ∧ 64 ≤ 64) ∧ ((8 : Nat) ≠ 16 ∧ (8 : Nat) ≠ 32) ∧ 64 < 65 := by
  decide

/-- For EachInstanceReadsItsOwnPorts, and both clauses of EachInstanceRunsAsItWouldAlone: the second of two equal
instances. -/
theorem witness_EachInstanceRunsAsItWouldAlone : (freshBank [c4, c4])[1]? = some (State.resetFor c4 1) ∧
    (State.resetFor c4 1).env = 1 ∧ [c4, c4][1]? = some c4 := by decide

theorem witness_AssemblerEncodesItsLines : 15 < 2 ^ c4.LW ∧ 0xFFFF < 2 ^ c4.W ∧ 255 < 256 ∧ 2 ^ c4.W ≤ 0x10000 ∧ 2 ^ c4.LW ≤ 16 := by
  decide

end Sys2Proof.Tests
end

section
/-! Proofs of the statements on the scope of the model (00_scope.md): the word in its container (R9), the derived
constants (R11), the instances that are built (R8, R10). -/

namespace Sys2Proof.Machine

variable {c : Config} {k : Nat}

/-! ### Output words (R9) -/

/-- Whatever the word, masking with MASK_W clears the bits from W up. -/
theorem getLsbD_and_maskW_of_le (v : Word) (hk : c.W ≤ k) : (v &&& zextC (maskW c)).getLsbD k = false := by
  simp [Nat.not_lt.mpr hk]

theorem getLsbD_wbsWord_of_le (shift : BitVec c.SW) (flip pol : Bool) (hk : c.W ≤ k) :
    (wbsWord shift flip pol).getLsbD k = false :=
  getLsbD_and_maskW_of_le _ hk

theorem getLsbD_awmWord_of_le (seed : BitVec c.W) (toggle : Bool) (hk : c.W ≤ k) :
    (awmWord seed toggle).getLsbD k = false :=
  getLsbD_and_maskW_of_le _ hk

/-- The three words `out_data` can be (R147). -/
theorem Regs.outData_cases (r : Regs c) :
    (r.busy = false ∧ r.outData = 0) ∨
    (r.busy = true ∧ r.op = .walk ∧ r.outData = wbsWord r.shift r.flip r.pol) ∨
    (r.busy = true ∧ r.op ≠ .walk ∧ r.outData = awmWord r.seed r.toggle) := by
  cases hb : r.busy <;> cases ho : r.op <;> simp [Regs.outData, hb, ho]

@[simp] theorem Regs.outputs_outData (r : Regs c) : r.outputs.outData = r.outData := rfl

/-- Settles O33: an idle block shows 0, and both units mask their word with MASK_W. -/
theorem bitsAboveWAreZero : Obligations.BitsAboveWAreZero := by
  intro c r k hk
  rw [Regs.outputs_outData]
  obtain ⟨-, h⟩ | ⟨-, -, h⟩ | ⟨-, -, h⟩ := r.outData_cases
  · simp [h]
  · rw [h, getLsbD_wbsWord_of_le _ _ _ hk]
  · rw [h, getLsbD_awmWord_of_le _ _ hk]

/-! ### The derived constants as numbers (R11) -/

theorem maskW_toNat (c : Config) : (maskW c).toNat = 2 ^ c.W - 1 := by
  rw [maskW, BitVec.toNat_ofNat, Nat.mod_eq_of_lt (Nat.sub_lt (Nat.two_pow_pos _) Nat.one_pos)]

theorem onesW_toNat (c : Config) : (onesW c).toNat = 2 ^ c.W - 1 := maskW_toNat c

theorem maskW_eq_allOnes (c : Config) : maskW c = BitVec.allOnes c.W :=
  BitVec.eq_of_toNat_eq (by rw [maskW_toNat, BitVec.toNat_allOnes])

theorem topW_toNat (c : Config) : (topW c).toNat = 2 ^ (c.W - 1) := by
  have hlt : 2 ^ (c.W - 1) < 2 ^ c.W := Nat.pow_lt_pow_right Nat.one_lt_two (Nat.sub_lt (W_pos c) Nat.one_pos)
  rw [topW, ← BitVec.twoPow_eq, BitVec.toNat_twoPow, Nat.mod_eq_of_lt hlt]

/-- `n` nibbles fit in 4 * n bits. -/
theorem repeatNibbleA_lt (n : Nat) : repeatNibbleA n < 2 ^ (4 * n) := by
  induction n with
  | zero => decide
  | succ n ih =>
    rw [repeatNibbleA, Nat.mul_succ, Nat.pow_add]
    omega

theorem chkW_toNat (c : Config) : (chkW c).toNat = repeatNibbleA (c.W / 4) := by
  have hlt : repeatNibbleA (c.W / 4) < 2 ^ c.W :=
    (repeatNibbleA_lt _).trans_le (Nat.pow_le_pow_right Nat.two_pos (Nat.mul_div_le c.W 4))
  rw [chkW, BitVec.toNat_ofNat, Nat.mod_eq_of_lt hlt]

theorem chkInvW_toNat (c : Config) : (chkInvW c).toNat = 2 ^ c.W - 1 - repeatNibbleA (c.W / 4) := by
  rw [chkInvW, maskW_eq_allOnes, BitVec.and_allOnes, BitVec.toNat_not, chkW_toNat]

/-- Settles O32: the constants' numbers at any width, evaluated at 16 and at 32. -/
theorem derivedConstants : Obligations.DerivedConstants := by
  intro c
  rw [maskW_toNat, topW_toNat, onesW_toNat, chkW_toNat, chkInvW_toNat]
  constructor <;> intro h
  · simp [Config.W, Config.SW, PatternWidth.bits, h, repeatNibbleA_four]
  · simp [Config.W, Config.SW, PatternWidth.bits, h, repeatNibbleA_eight]

/-! ### Building an instance (R8, R10) -/

variable {lw : Nat}

theorem instantiate_w16 (hpos : 1 ≤ lw) (hle : lw ≤ 64) (env : Nat) :
    instantiate 16 lw env = .next (State.resetFor ⟨.w16, lw, hpos, hle⟩ env) := by
  simp [instantiate, hpos, hle]

theorem instantiate_w32 (hpos : 1 ≤ lw) (hle : lw ≤ 64) (env : Nat) :
    instantiate 32 lw env = .next (State.resetFor ⟨.w32, lw, hpos, hle⟩ env) := by
  simp [instantiate, hpos, hle]

theorem instantiate_of_width_ne {w : Nat} (hlw : 1 ≤ lw ∧ lw ≤ 64) (h16 : w ≠ 16) (h32 : w ≠ 32) (env : Nat) :
    instantiate w lw env = .refused (.patternWidthNotDescribed w) := by
  simp [instantiate, hlw, h16, h32]

theorem instantiate_of_lenWidth_not_in_range (hlw : ¬ (1 ≤ lw ∧ lw ≤ 64)) (w env : Nat) :
    instantiate w lw env = .refused (.lengthWidthOutOfRange lw) :=
  dif_neg hlw

/-- Settles O55: `instantiate` builds the instance of either described width and refuses all else. -/
theorem onlyDescribedInstancesAreBuilt : Obligations.OnlyDescribedInstancesAreBuilt := by
  intro w lw env
  refine ⟨?_, fun hlw h16 h32 => instantiate_of_width_ne hlw h16 h32 env,
    fun hlw => instantiate_of_lenWidth_not_in_range (by omega) w env⟩
  rintro ⟨hpos, hle⟩ (rfl | rfl)
  · exact ⟨⟨.w16, lw, hpos, hle⟩, rfl, rfl, instantiate_w16 hpos hle env⟩
  · exact ⟨⟨.w32, lw, hpos, hle⟩, rfl, rfl, instantiate_w32 hpos hle env⟩

end Sys2Proof.Machine
end

section
/-! Proof of the statement on the error registers (10_state.md): ERR and ERR_CTRL (R32, R33). -/

namespace Sys2Proof.Machine

variable {c : Config}

/-- The command handshake as a value, in the ports and BUSY alone (R141, R142). -/
theorem commandHandshake_eq (inp : Inputs c) (r : Regs c) :
    commandHandshake inp r = (!inp.rst && inp.cmdValid && !r.busy) := rfl

@[simp] theorem Regs.outputs_err (r : Regs c) : r.outputs.err = r.err := rfl

@[simp] theorem Regs.outputs_errCtrl (r : Regs c) : r.outputs.errCtrl = r.errCtrl := rfl

/-- No command touches the error registers (R107, R122 to R124). -/
theorem exec_keeps_error {i : Instr} {s t : State} (h : exec i s = .next t) :
    t.regs.err = s.regs.err ∧ t.regs.errCtrl = s.regs.errCtrl := by
  rw [exec_eq_offerCommand] at h
  obtain ⟨r, rfl, herr, hctrl⟩ := offerCommand_frame h
  exact ⟨herr, hctrl⟩

/-- At an edge without reset the error registers change exactly by the accept of an illegal command, and ERR_CTRL only
by the first one (R145, R172). -/
theorem edge_error_of_no_reset {s t : State} {inp : Inputs s.cfg} (h : edge s inp = .next t) (hrst : inp.rst = false) :
    t.regs.err = (s.regs.err || (commandHandshake inp s.regs && !legal inp.cmdCtrl)) ∧
    t.regs.errCtrl =
      if commandHandshake inp s.regs && !legal inp.cmdCtrl && !s.regs.err then inp.cmdCtrl else s.regs.errCtrl := by
  rw [commandHandshake_eq]
  obtain ⟨hr, -⟩ | ⟨-, hb, rfl⟩ | ⟨-, -, hv, rfl⟩ | ⟨-, hb, hv, hl, rfl⟩ | ⟨-, -, -, hl, i, -, hexec⟩ := edge_cases h
  · simp [hrst] at hr
  · obtain ⟨-, -, -, -, herr, hctrl⟩ := s.regs.outputEdge_frame inp.outReady
    simp [hb, herr, hctrl]
  · simp [hv]
  · cases he : s.regs.err <;> simp [hrst, hb, hv, hl, he]
  · simp [hl, exec_keeps_error hexec]

/-- A reset edge leaves RESET_STATE in the registers (R190). -/
theorem edge_of_reset {s : State} {inp : Inputs s.cfg} (hrst : inp.rst = true) : edge s inp = .next s.resetEdge := by
  simp [edge, hrst]

/-- Settles O27, by the edge the step takes: the reset edge, or one without reset. -/
theorem errorRegistersChangeOnlyOnIllegalAccept : Obligations.ErrorRegistersChangeOnlyOnIllegalAccept := by
  intro s t hstep
  obtain ⟨u, hedge, rfl⟩ := step_eq_next.mp hstep
  have hnoReset := edge_error_of_no_reset hedge
  refine ⟨fun hrst => ?_, hnoReset, Regs.outputs_err _, Regs.outputs_errCtrl _⟩
  obtain rfl : s.resetEdge = u := by simpa [edge_of_reset hrst] using hedge
  exact ⟨rfl, rfl⟩

end Sys2Proof.Machine
end

section
/-! Proofs of the statements on the decoder (30_encoding.md): the fields of a control byte as numbers (R67), legality
(R71), the decode function branch by branch (R77), and the table of the 256 control bytes (R74). -/

namespace Sys2Proof

variable {c : Config} {ctrl : Byte} {seed : Word} {len : BitVec c.LW}

/-! ### The control byte in numbers (R67, R71) -/

theorem rsvField_toNat (ctrl : Byte) : (rsvField ctrl).toNat = ctrl.toNat / 8 := by
  have hlt : ctrl.toNat / 8 < 2 ^ 5 := by have := ctrl.isLt; omega
  rw [rsvField, BitVec.extractLsb'_toNat, Nat.shiftRight_eq_div_pow, Nat.mod_eq_of_lt hlt]

theorem opcField_toNat (ctrl : Byte) : (opcField ctrl).toNat = ctrl.toNat % 4 := by
  simp [opcField]

theorem rsvField_eq_zero_iff (ctrl : Byte) : rsvField ctrl = 0b00000#5 ↔ ctrl.toNat / 8 = 0 := by
  rw [← BitVec.toNat_inj, rsvField_toNat]
  rfl

theorem opcField_eq_iff (ctrl : Byte) (b : BitVec 2) : opcField ctrl = b ↔ ctrl.toNat % 4 = b.toNat := by
  rw [← BitVec.toNat_inj, opcField_toNat]

/-- R71, on the fields: a legal byte has RSV zero, and P only with the OPC of WALK. -/
theorem legal_iff_fields (ctrl : Byte) :
    legal ctrl = true ↔ rsvField ctrl = 0b00000#5 ∧ (opcField ctrl = 0b00#2 ∨ polField ctrl = false) := by
  simp [legal]

theorem legal_iff_toNat (ctrl : Byte) :
    legal ctrl = true ↔ ctrl.toNat / 8 = 0 ∧ (ctrl.toNat % 4 = 0 ∨ ctrl.getLsbD 2 = false) := by
  rw [legal_iff_fields, rsvField_eq_zero_iff, opcField_eq_iff]
  rfl

/-- The legal bytes are the five smallest: of the eight with RSV zero, bit 2 leaves 0x00 to 0x03 and 0x04 (R74). -/
theorem legal_iff_lt_five (ctrl : Byte) : legal ctrl = true ↔ ctrl.toNat < 5 := by
  have hbit : ctrl.getLsbD 2 = false ↔ ctrl.toNat / 4 % 2 = 0 := by
    rw [← BitVec.testBit_toNat, Nat.testBit_eq_decide_div_mod_eq]
    simp
  rw [legal_iff_toNat, hbit]
  omega

/-! ### The decode function, an equation per branch (R77) -/

theorem decode_of_rsvField_ne (hr : rsvField ctrl ≠ 0b00000#5) :
    decode (⟨ctrl, seed, len⟩ : Command c) = .error .reservedBitsSet :=
  if_pos hr

theorem decode_walk {p : Bool} (hr : rsvField ctrl = 0b00000#5) (ho : opcField ctrl = 0b00#2)
    (hp : polField ctrl = p) : decode (⟨ctrl, seed, len⟩ : Command c) = .ok (.walk p len.toNat) := by
  simp [decode, Opcode.ofBits, hr, ho, hp]

theorem decode_alt (hr : rsvField ctrl = 0b00000#5) (ho : opcField ctrl = 0b01#2) (hp : polField ctrl = false) :
    decode (⟨ctrl, seed, len⟩ : Command c) = .ok (.alt seed len.toNat) := by
  simp [decode, Opcode.ofBits, hr, ho, hp]

theorem decode_chk (hr : rsvField ctrl = 0b00000#5) (ho : opcField ctrl = 0b10#2) (hp : polField ctrl = false) :
    decode (⟨ctrl, seed, len⟩ : Command c) = .ok (.chk len.toNat) := by
  simp [decode, Opcode.ofBits, hr, ho, hp]

theorem decode_zo (hr : rsvField ctrl = 0b00000#5) (ho : opcField ctrl = 0b11#2) (hp : polField ctrl = false) :
    decode (⟨ctrl, seed, len⟩ : Command c) = .ok (.zo len.toNat) := by
  simp [decode, Opcode.ofBits, hr, ho, hp]

/-- P with the OPC of ALT, CHK or ZO is the other way to be illegal (R70, R71). -/
theorem decode_of_polField (hr : rsvField ctrl = 0b00000#5) (ho : opcField ctrl ≠ 0b00#2) (hp : polField ctrl = true) :
    decode (⟨ctrl, seed, len⟩ : Command c) = .error .polaritySetWithoutWalk := by
  rw [decode, if_neg (not_not.mpr hr), hp, Opcode.ofBits, if_neg ho]
  split_ifs <;> rfl

theorem decode_of_not_legal {cmd : Command c} (h : legal cmd.ctrl = false) : ∃ e, decode cmd = .error e := by
  obtain ⟨e, he, -⟩ | ⟨i, -, hl, -⟩ := decode_cases cmd
  · exact ⟨e, he⟩
  · simp [h] at hl

/-- Settles O4: legality read off the byte's number, and past it one branch of `decode` per value of OPC. -/
theorem decodeFollowsLegalityAndOpcode : Obligations.DecodeFollowsLegalityAndOpcode := by
  rintro c ⟨ctrl, seed, len⟩
  refine ⟨legal_iff_toNat ctrl, decode_of_not_legal, fun hl => ?_⟩
  obtain ⟨hr, hpol⟩ := (legal_iff_fields ctrl).mp hl
  rw [opcField_eq_iff] at hpol
  refine ⟨fun ho => decode_walk hr ?_ rfl, fun ho => decode_alt hr ?_ (hpol.resolve_left (by simp [ho])),
    fun ho => decode_chk hr ?_ (hpol.resolve_left (by simp [ho])),
    fun ho => decode_zo hr ?_ (hpol.resolve_left (by simp [ho]))⟩
  all_goals exact (opcField_eq_iff ctrl _).mpr ho

/-! ### The 256 control bytes (R74) -/

/-- Of the numbers of the 256 bytes, the first 5 are legal and the 251 from 5 on are not. -/
theorem countP_legal : ((List.range 256).countP fun n => legal (BitVec.ofNat 8 n)) = 5 := by
  have hlegal : ∀ n ∈ List.range 256, legal (BitVec.ofNat 8 n) = true ↔ decide (n < 5) = true := by
    intro n hn
    rw [legal_iff_lt_five, BitVec.toNat_ofNat, Nat.mod_eq_of_lt (List.mem_range.mp hn), decide_eq_true_iff]
  have hfirst : (List.range 5).countP (fun n => decide (n < 5)) = 5 := rfl
  have hrest : ((List.range 251).map (5 + ·)).countP (fun n => decide (n < 5)) = 0 := by
    simp [List.countP_eq_zero]
  rw [List.countP_congr hlegal, show 256 = 5 + 251 from rfl, List.range_add, List.countP_append, hfirst, hrest]

theorem countP_not_legal : ((List.range 256).countP fun n => !legal (BitVec.ofNat 8 n)) = 251 := by
  have hsum := List.length_eq_countP_add_countP (l := List.range 256) (fun n => legal (BitVec.ofNat 8 n))
  rw [countP_legal, List.length_range] at hsum
  simp only [Bool.not_eq_true, Bool.decide_eq_false] at hsum
  omega

/-- Settles O3: each branch of `decode` at the bytes that take it, then the count of the legal ones. -/
theorem decodeOfEveryControlByte : Obligations.DecodeOfEveryControlByte := by
  refine ⟨fun c ctrl seed len => ⟨?walkZeros, ?walkOnes, ?alt, ?chk, ?zo, ?polarity, fun h => ?reserved⟩,
    countP_legal, countP_not_legal⟩
  case walkZeros => rintro rfl; exact decode_walk (by decide) (by decide) (by decide)
  case walkOnes => rintro rfl; exact decode_walk (by decide) (by decide) (by decide)
  case alt => rintro rfl; exact decode_alt (by decide) (by decide) (by decide)
  case chk => rintro rfl; exact decode_chk (by decide) (by decide) (by decide)
  case zo => rintro rfl; exact decode_zo (by decide) (by decide) (by decide)
  case polarity => rintro (rfl | rfl | rfl) <;> exact decode_of_polField (by decide) (by decide) (by decide)
  case reserved =>
    refine decode_of_rsvField_ne fun hr => ?_
    have hlow := (rsvField_eq_zero_iff ctrl).mp hr
    omega

end Sys2Proof
end

section
/-! Proofs of the statements on the walking-bit shifter (40_walking_bit_shifter.md). Everything rests on one fact: a raw
word is 2 to the place of its bit, with the anchor as without it (R101 to R104, R108, R109). -/

namespace Sys2Proof.Machine

variable {c : Config}

/-! ### The raw word of a lap (R102, R103) -/

/-- R103: the falling lap carries TOP_W's bit down. -/
theorem topW_shiftRight {s : Nat} (hs : s < c.W) : topW c >>> s = BitVec.twoPow c.W (c.W - 1 - s) := by
  apply BitVec.eq_of_getLsbD_eq
  intro k hk
  rw [BitVec.getLsbD_ushiftRight, getLsbD_topW, BitVec.getLsbD_twoPow, Bool.eq_iff_iff, decide_eq_true_iff,
    Bool.and_eq_true, decide_eq_true_iff, decide_eq_true_iff]
  omega

/-- The place of the walking bit after `s` moves of a lap (R102, R103). -/
def lapPos (c : Config) (s : Nat) (flip : Bool) : Nat := if flip then c.W - 1 - s else s

theorem lapPos_lt {s : Nat} (hs : s < c.W) (flip : Bool) : lapPos c s flip < c.W := by
  cases flip <;> simp [lapPos] <;> omega

theorem getLsbD_twoPow_iff {p : Nat} (hp : p < c.W) (k : Nat) : (BitVec.twoPow c.W p).getLsbD k = true ↔ k = p := by
  rw [BitVec.getLsbD_twoPow]
  simp [hp, eq_comm]

/-! ### The unit's raw word (R101 to R104) -/

/-- At the anchor the lap's place is 0 (R101, R109). -/
theorem wbsRaw_eq_twoPow (shift : BitVec c.SW) (flip : Bool) :
    wbsRaw shift flip = BitVec.twoPow c.W (lapPos c shift.toNat flip) := by
  cases flip with
  | true => simp [wbsRaw, lapPos, topW_shiftRight (shift_lt shift)]
  | false =>
    by_cases hs : shift = 0
    · simp [wbsRaw, lapPos, hs, BitVec.twoPow_eq]
    · rw [wbsRaw, if_neg (fun h => hs h.1), if_pos rfl, BitVec.twoPow_eq]
      rfl

theorem getLsbD_wbsRaw_iff (shift : BitVec c.SW) (flip : Bool) (k : Nat) :
    (wbsRaw shift flip).getLsbD k = true ↔ k = lapPos c shift.toNat flip := by
  rw [wbsRaw_eq_twoPow, getLsbD_twoPow_iff (lapPos_lt (shift_lt shift) flip)]

theorem wbsRaw_ne_zero (shift : BitVec c.SW) (flip : Bool) : wbsRaw shift flip ≠ 0 := by
  intro hzero
  have hbit := (getLsbD_wbsRaw_iff shift flip _).mpr rfl
  simp [hzero] at hbit

/-- Settles O34: the raw word is 2 to the lap's place, which is below W. -/
theorem walkingWordHasExactlyOneBit : Obligations.WalkingWordHasExactlyOneBit := fun c shift flip =>
  ⟨two_pow_SW c, shift_lt shift, wbsRaw_ne_zero shift flip, getLsbD_wbsRaw_iff shift flip⟩

/-! ### The place of the bit by the index (R112) -/

theorem walkPos_eq_lapPos (c : Config) (i : Nat) :
    walkPos c i = lapPos c (i % c.W) ((i / c.W) % 2 == 1) := by
  obtain h | h := Nat.mod_two_eq_zero_or_one (i / c.W) <;> simp [walkPos, lapPos, h]

theorem walkPos_lt (c : Config) (i : Nat) : walkPos c i < c.W :=
  walkPos_eq_lapPos c i ▸ lapPos_lt (Nat.mod_lt i (W_pos c)) _

theorem walkPos_rising {i : Nat} (hi : i < c.W) : walkPos c i = i := by
  simp [walkPos, Nat.div_eq_of_lt hi, Nat.mod_eq_of_lt hi]

theorem walkPos_falling {i : Nat} (hlo : c.W ≤ i) (hhi : i < 2 * c.W) : walkPos c i = 2 * c.W - 1 - i := by
  have hdiv : i / c.W = 1 := Nat.div_eq_of_lt_le (by omega) (by omega)
  have hmod : i % c.W = i - c.W := by rw [Nat.mod_eq_sub_mod hlo, Nat.mod_eq_of_lt (by omega)]
  rw [walkPos, hdiv, hmod, if_neg (by decide)]
  omega

/-- Two laps later the bit is back (R110). -/
theorem walkPos_add_period (c : Config) (i : Nat) : walkPos c (i + 2 * c.W) = walkPos c i := by
  simp [walkPos, Nat.add_mul_div_right i 2 (W_pos c)]

/-- A multiple of 2W starts a rising lap (R109). -/
theorem lap_of_multiple {i : Nat} (hi : i % (2 * c.W) = 0) : (i / c.W) % 2 = 0 ∧ i % c.W = 0 := by
  obtain ⟨n, rfl⟩ := Nat.dvd_of_mod_eq_zero hi
  have hmul : 2 * c.W * n = c.W * (2 * n) := by ring
  simp [hmul, Nat.mul_div_cancel_left _ (W_pos c)]

theorem walkPos_of_multiple {i : Nat} (hi : i % (2 * c.W) = 0) : walkPos c i = 0 := by
  obtain ⟨hflip, hshift⟩ := lap_of_multiple hi
  simp [walkPos, hflip, hshift]

/-! ### The source's word (R108) -/

/-- The word whose bit `p` is set, or the one clear bit among the low W, in the container (R105, R106). -/
def walkWord (c : Config) (p : Nat) (pol : Bool) : Word :=
  zextC (if pol then BitVec.twoPow c.W p else ~~~BitVec.twoPow c.W p)

theorem walkWord_zero_true (c : Config) : walkWord c 0 true = 1 := by
  obtain ⟨_ | _, _⟩ := c <;> rfl

theorem walkElemNoAnchor_eq_walkWord (c : Config) (i : Nat) (pol : Bool) :
    walkElemNoAnchor c i pol = walkWord c (walkPos c i) pol := by
  have hraw : (if !((i / c.W) % 2 == 1) then 1#c.W <<< (i % c.W) else topW c >>> (i % c.W)) =
      BitVec.twoPow c.W (walkPos c i) := by
    rw [topW_shiftRight (Nat.mod_lt i (W_pos c)), ← BitVec.twoPow_eq]
    obtain h | h := Nat.mod_two_eq_zero_or_one (i / c.W) <;> simp [walkPos, h]
  simp only [walkElemNoAnchor, hraw, maskW_eq_allOnes, BitVec.and_allOnes, walkWord]

/-- The anchor forces the place the lap has there anyway (R109). -/
theorem walkElem_eq_walkElemNoAnchor (c : Config) (i : Nat) (pol : Bool) :
    walkElem c i pol = walkElemNoAnchor c i pol := by
  by_cases hi : i % (2 * c.W) = 0
  · obtain ⟨hflip, hshift⟩ := lap_of_multiple hi
    simp [walkElem, walkElemNoAnchor, hi, hflip, hshift]
  · simp [walkElem, walkElemNoAnchor, hi]

theorem walkElem_eq_walkWord (c : Config) (i : Nat) (pol : Bool) :
    walkElem c i pol = walkWord c (walkPos c i) pol :=
  (walkElem_eq_walkElemNoAnchor c i pol).trans (walkElemNoAnchor_eq_walkWord c i pol)

theorem getLsbD_walkElem_true_iff (c : Config) (i k : Nat) :
    (walkElem c i true).getLsbD k = true ↔ k = walkPos c i := by
  rw [walkElem_eq_walkWord, walkWord, if_pos rfl, getLsbD_zextC, getLsbD_twoPow_iff (walkPos_lt c i)]

theorem getLsbD_walkElem_false_iff (c : Config) (i k : Nat) :
    (walkElem c i false).getLsbD k = true ↔ k < c.W ∧ k ≠ walkPos c i := by
  rw [walkElem_eq_walkWord, walkWord, if_neg (by decide), getLsbD_zextC, BitVec.getLsbD_not, Bool.and_eq_true,
    decide_eq_true_iff, Bool.not_eq_true', ← Bool.not_eq_true, getLsbD_twoPow_iff (walkPos_lt c i)]

theorem walkElem_add_period (c : Config) (i : Nat) (pol : Bool) :
    walkElem c (i + 2 * c.W) pol = walkElem c i pol := by
  rw [walkElem_eq_walkWord, walkPos_add_period, ← walkElem_eq_walkWord]

/-- The complement of a W-bit value, taken in the container and masked (R13, R105, R106). -/
theorem not_zextC_and_maskW (v : BitVec c.W) : ~~~zextC v &&& zextC (maskW c) = zextC (~~~v) := by
  apply BitVec.eq_of_getLsbD_eq
  intro k hk
  rw [BitVec.getLsbD_and, BitVec.getLsbD_not, getLsbD_zextC, getLsbD_zextC, getLsbD_zextC, getLsbD_maskW,
    BitVec.getLsbD_not]
  simp [hk, Bool.and_comm]

theorem walkElem_true_eq_not_false (c : Config) (i : Nat) :
    walkElem c i true = ~~~walkElem c i false &&& zextC (maskW c) := by
  simp [walkElem_eq_walkWord, walkWord, not_zextC_and_maskW]

theorem walkSeq_getElem? {len i : Nat} (hi : i < len) (pol : Bool) :
    (walkSeq c len pol)[i]? = some (walkElem c i pol) := by
  simp [walkSeq, hi]

/-- Settles O38: the two reference functions agree at the anchor by the lap's place there, and elsewhere by definition. -/
theorem anchorIsRedundant : Obligations.AnchorIsRedundant := fun c i pol =>
  ⟨lap_of_multiple, (walkElem_eq_walkElemNoAnchor c i pol).symm⟩

/-- Settles O39: the word depends on the place of the bit alone, and the place has period 2W. -/
theorem walkHasPeriodTwoW : Obligations.WalkHasPeriodTwoW := by
  intro c i len pol
  refine ⟨walkElem_add_period c i pol, fun hi => ?_, ?_⟩
  · rw [walkSeq_getElem? hi, walkSeq_getElem? (by omega), walkElem_add_period]
  · rw [walkElem_eq_walkWord, walkPos_of_multiple (Nat.mul_mod_left i _), walkWord_zero_true]

/-- Settles O40, word by word: complementing twice within W bits is the identity. -/
theorem walkPolaritiesAreComplements : Obligations.WalkPolaritiesAreComplements := by
  intro c len i hi
  rw [walkSeq_getElem? hi, walkSeq_getElem? hi, walkElem_true_eq_not_false]
  rfl

/-- Settles O41: the bits of each polarity's word, and the place of the bit in each lap. -/
theorem walkingBitPosition : Obligations.WalkingBitPosition := fun c i k =>
  ⟨getLsbD_walkElem_true_iff c i k, getLsbD_walkElem_false_iff c i k, walkPos_lt c i, walkPos_rising, walkPos_falling⟩

end Sys2Proof.Machine
end

section
/-! Proofs of the statements on the alternating-word mux (41_alternating_word_mux.md): the mux as an XOR (R120), the
words of an ALT command (R127), and the presets CHK and ZO as ALT with their own seeds (R126). -/

namespace Sys2Proof.Machine

variable {c : Config}

/-! ### W-bit values in the container (R13, R72) -/

theorem zextC_xor (v w : BitVec c.W) : zextC (v ^^^ w) = zextC v ^^^ zextC w :=
  BitVec.setWidth_xor

/-- A W-bit value in the container is already masked. -/
theorem zextC_and_maskW (v : BitVec c.W) : zextC v &&& zextC (maskW c) = zextC v := by
  rw [zextC, zextC, ← BitVec.setWidth_and, maskW_eq_allOnes, BitVec.and_allOnes]

@[simp] theorem getLsbD_seedLow (seed : Word) (k : Nat) :
    (seedLow c seed).getLsbD k = (decide (k < c.W) && seed.getLsbD k) := by
  simp [seedLow]

/-- Dropping the seed's upper bits is masking it (R72). -/
theorem zextC_seedLow (seed : Word) : zextC (seedLow c seed) = seed &&& zextC (maskW c) := by
  apply BitVec.eq_of_getLsbD_eq
  intro k _
  rw [getLsbD_zextC, getLsbD_seedLow, BitVec.getLsbD_and, getLsbD_zextC, getLsbD_maskW, Bool.and_comm]

theorem seedLow_not (seed : Word) : seedLow c (~~~seed) = ~~~seedLow c seed := by
  apply BitVec.eq_of_getLsbD_eq
  intro k hk
  simp only [getLsbD_seedLow, BitVec.getLsbD_not, hk, hk.trans_le (W_le c), decide_true, Bool.true_and]

@[simp] theorem seedLow_zextC (v : BitVec c.W) : seedLow c (zextC v) = v := by
  apply BitVec.eq_of_getLsbD_eq
  intro k hk
  rw [getLsbD_seedLow, getLsbD_zextC, decide_eq_true hk, Bool.true_and]

@[simp] theorem seedLow_zero : seedLow c 0 = 0 := by
  simp [seedLow]

/-! ### The mux (R120) -/

/-- Past the mask the mux passes the seed or its W-bit complement. -/
theorem awmWord_eq_zextC (seed : BitVec c.W) (toggle : Bool) :
    awmWord seed toggle = zextC (if toggle then seed else ~~~seed) := by
  cases toggle with
  | true => exact zextC_and_maskW seed
  | false => exact not_zextC_and_maskW seed

/-- The source's XOR form. -/
theorem awmWord_eq_xor (seed : BitVec c.W) (toggle : Bool) :
    awmWord seed toggle = zextC (seed ^^^ if toggle then 0 else onesW c) := by
  rw [awmWord_eq_zextC]
  cases toggle with
  | true => simp
  | false => simp [onesW, maskW_eq_allOnes]

theorem Regs.outData_of_not_walk {r : Regs c} (hb : r.busy = true) (hop : r.op ≠ .walk) :
    r.outData = awmWord r.seed r.toggle := by
  obtain ⟨hidle, -⟩ | ⟨-, hwalk, -⟩ | ⟨-, -, hdata⟩ := r.outData_cases
  · simp [hb] at hidle
  · exact absurd hwalk hop
  · exact hdata

/-- Settles O35: the mux form by definition, the XOR form by TOGGLE, and the output port by OP. -/
theorem alternatingWordIsSeedXorOnes : Obligations.AlternatingWordIsSeedXorOnes := fun _ seed toggle _ =>
  ⟨rfl, awmWord_eq_xor seed toggle, fun _ => getLsbD_awmWord_of_le seed toggle, Regs.outData_of_not_walk⟩

/-! ### The words of ALT (R125, R127) -/

theorem altElem_eq_zextC (i : Nat) (seed : BitVec c.W) :
    altElem c i seed = zextC (if i % 2 = 0 then seed else ~~~seed) := by
  rw [altElem, maskW_eq_allOnes, BitVec.and_allOnes]

/-- Word `i`, from the whole SEED field (R72). -/
theorem altElem_seedLow (i : Nat) (seed : Word) :
    altElem c i (seedLow c seed) = (if i % 2 = 0 then seed else ~~~seed) &&& zextC (maskW c) := by
  rw [altElem_eq_zextC, ← zextC_seedLow]
  split_ifs
  · rfl
  · rw [seedLow_not]

theorem altElem_add_two (i : Nat) (seed : BitVec c.W) : altElem c (i + 2) seed = altElem c i seed := by
  rw [altElem, altElem, Nat.add_mod_right]

theorem altElem_xor_succ (i : Nat) (seed : BitVec c.W) :
    altElem c i seed ^^^ altElem c (i + 1) seed = zextC (maskW c) := by
  rw [altElem_eq_zextC, altElem_eq_zextC, ← zextC_xor, maskW_eq_allOnes]
  obtain h | h := Nat.mod_two_eq_zero_or_one i
  · have hsucc : (i + 1) % 2 = 1 := by omega
    simp [h, hsucc, ← BitVec.not_xor_right]
  · have hsucc : (i + 1) % 2 = 0 := by omega
    simp [h, hsucc, ← BitVec.not_xor_left]

theorem altSeq_getElem? {len i : Nat} (hi : i < len) (seed : BitVec c.W) :
    (altSeq c len seed)[i]? = some (altElem c i seed) := by
  simp [altSeq, hi]

/-- Settles O42: each word of the sequence is the reference function's, which the index's parity decides. -/
theorem altWordsAlternate : Obligations.AltWordsAlternate := by
  intro c seed len i hi
  have hword {j : Nat} (hj : j < len) :
      (commandWords c (.alt seed len))[j]? = some (altElem c j (seedLow c seed)) := altSeq_getElem? hj _
  refine ⟨?_, fun hsucc => ⟨_, _, hword hi, hword hsucc, altElem_xor_succ i _⟩, fun htwo => ?_⟩
  · rw [hword hi, altElem_seedLow]
  · rw [hword htwo, hword hi, altElem_add_two]

/-! ### One opcode of the mux for another (R126)

Two blocks that differ in OP alone, neither OP being that of WALK, go on differing in OP alone or come to the same
state, and meanwhile show the same words. -/

/-- The registers with another OP. -/
def Regs.withOp (op : Opcode) (r : Regs c) : Regs c := { r with op := op }

/-- The state with another OP. -/
def State.withOp (op : Opcode) (s : State) : State := { s with regs := s.regs.withOp op }

variable {op : Opcode}

theorem Regs.outData_withOp {r : Regs c} (hr : r.op ≠ .walk) (hop : op ≠ .walk) :
    (r.withOp op).outData = r.outData := by
  cases hb : r.busy with
  | false => simp [Regs.outData, Regs.withOp, hb]
  | true => rw [Regs.outData_of_not_walk hb hr, Regs.outData_of_not_walk (r := r.withOp op) hb hop]; rfl

theorem delivery_withOp (inp : Inputs c) {r : Regs c} (hr : r.op ≠ .walk) (hop : op ≠ .walk) :
    delivery inp (r.withOp op) = delivery inp r := by
  have hdata : (r.withOp op).outputs.outData = r.outputs.outData := Regs.outData_withOp hr hop
  rw [delivery, hdata]
  rfl

/-- No output edge reads or writes OP (D20). -/
theorem Regs.outputEdge_withOp (ready : Bool) (r : Regs c) :
    (r.withOp op).outputEdge ready = (r.outputEdge ready).withOp op := by
  have hlast : atLastWord (r.withOp op) = atLastWord r := rfl
  rw [Regs.outputEdge, Regs.outputEdge, hlast]
  split_ifs <;> rfl

/-- An idle block that takes up a command forgets its OP (R143). -/
theorem exec_withOp (i : Instr) {s : State} (hb : s.regs.busy = false) : exec i (s.withOp op) = exec i s := by
  have hb' : (s.withOp op).regs.busy = false := hb
  rw [exec_eq_offerCommand, exec_eq_offerCommand, offerCommand, offerCommand, hb, hb']
  rfl

/-- Without reset a busy block takes the output edge (R140). -/
theorem edge_of_busy {s : State} {inp : Inputs s.cfg} (hrst : inp.rst = false) (hb : s.regs.busy = true) :
    edge s inp = .next { s with regs := s.regs.outputEdge inp.outReady } := by
  simp [edge, hrst, hb]

/-- Without reset an idle block takes the command edge (R140). -/
theorem edge_of_idle {s : State} {inp : Inputs s.cfg} (hrst : inp.rst = false) (hb : s.regs.busy = false) :
    edge s inp = commandEdge s inp := by
  simp [edge, hrst, hb]

theorem commandEdge_of_no_command {s : State} {inp : Inputs s.cfg} (hv : inp.cmdValid = false) :
    commandEdge s inp = .next s := by
  simp [commandEdge, hv]

theorem commandEdge_of_decode_ok {s : State} {inp : Inputs s.cfg} {i : Instr} (hv : inp.cmdValid = true)
    (hd : decode inp.command = .ok i) : commandEdge s inp = exec i s := by
  simp [commandEdge, hv, hd]

theorem commandEdge_of_decode_error {s : State} {inp : Inputs s.cfg} {e : IllegalCtrl} (hv : inp.cmdValid = true)
    (hd : decode inp.command = .error e) :
    commandEdge s inp = .next { s with regs := s.regs.raiseIllegalCmd inp.cmdCtrl } := by
  simp [commandEdge, hv, hd]

/-- What another OP changes in the outcome `o` of an edge or step from `s`: nothing, or OP alone. -/
def SameUpToOp (op : Opcode) (s : State) (o o' : Host.Outcome State Fault Refusal) : Prop :=
  o' = o ∨ ∃ t, o = .next t ∧ t.regs.op = s.regs.op ∧ o' = .next (t.withOp op)

theorem commandEdge_withOp (op : Opcode) {s : State} (inp : Inputs s.cfg) (hb : s.regs.busy = false) :
    SameUpToOp op s (commandEdge s inp) (commandEdge (s.withOp op) inp) := by
  cases hv : inp.cmdValid with
  | false => exact .inr ⟨s, commandEdge_of_no_command hv, rfl, commandEdge_of_no_command hv⟩
  | true =>
    cases hd : decode inp.command with
    | error e => exact .inr ⟨_, commandEdge_of_decode_error hv hd, rfl, commandEdge_of_decode_error hv hd⟩
    | ok i =>
      rw [commandEdge_of_decode_ok hv hd, commandEdge_of_decode_ok (s := s.withOp op) hv hd]
      exact .inl (exec_withOp i hb)

theorem edge_withOp (op : Opcode) (s : State) (inp : Inputs s.cfg) :
    SameUpToOp op s (edge s inp) (edge (s.withOp op) inp) := by
  cases hrst : inp.rst with
  | true =>
    rw [edge_of_reset hrst, edge_of_reset (s := s.withOp op) hrst]
    exact .inl rfl
  | false =>
    cases hb : s.regs.busy with
    | false =>
      rw [edge_of_idle hrst hb, edge_of_idle (s := s.withOp op) hrst hb]
      exact commandEdge_withOp op inp hb
    | true =>
      obtain ⟨hop, -⟩ := s.regs.outputEdge_frame inp.outReady
      refine .inr ⟨_, edge_of_busy hrst hb, hop, ?_⟩
      rw [edge_of_busy (s := s.withOp op) hrst hb]
      exact congrArg (fun r => Host.Outcome.next { s with regs := r }) (Regs.outputEdge_withOp inp.outReady s.regs)

theorem step_withOp (op : Opcode) (s : State) : SameUpToOp op s (step s) (step (s.withOp op)) := by
  obtain h | ⟨t, ht, hop, ht'⟩ := edge_withOp op s s.currentInputs
  · exact .inl (congrArg passCycle h)
  · exact .inr ⟨t.nextCycle, congrArg passCycle ht, hop, congrArg passCycle ht'⟩

/-- Among the opcodes of the mux, OP has no part in what is delivered. -/
theorem delivered_withOp (hop : op ≠ .walk) (n : Nat) {s : State} (hs : s.regs.op ≠ .walk) :
    delivered n (s.withOp op) = delivered n s := by
  induction n generalizing s with
  | zero => rfl
  | succ n ih =>
    have hword : delivery (s.withOp op).currentInputs (s.withOp op).regs = delivery s.currentInputs s.regs :=
      delivery_withOp s.currentInputs hs hop
    obtain h | ⟨t, ht, htop, ht'⟩ := step_withOp op s
    · rw [delivered, delivered, h, hword]
    · rw [delivered_succ_of_next ht, delivered_succ_of_next ht', hword, ih (htop ▸ hs)]

/-! ### The presets (R121, R126) -/

/-- An idle block latches an offered command whose length fits (R143). -/
theorem offerCommand_of_idle {s : State} {len : Nat} (hb : s.regs.busy = false) (hlen : len < 2 ^ s.cfg.LW)
    (op : Opcode) (pol : Bool) (seed : Word) :
    offerCommand op pol seed len s =
      .next { s with regs := s.regs.latch op pol (effSeed s.cfg op seed) (lenField s.cfg len) } := by
  simp [offerCommand, hb, hlen]

/-- A command that latches POL = 0 delivers what ALT delivers with its effective seed. -/
theorem delivered_eq_alt {s t u : State} {len : Nat} {field seed : Word} (hb : s.regs.busy = false)
    (hlen : len < 2 ^ s.cfg.LW) (hop : op ≠ .walk) (hseed : effSeed s.cfg op field = seedLow s.cfg seed)
    (ht : offerCommand op false field len s = .next t) (hu : offerCommand .alt false seed len s = .next u) (n : Nat) :
    delivered n t = delivered n u := by
  rw [offerCommand_of_idle hb hlen, hseed] at ht
  rw [offerCommand_of_idle hb hlen] at hu
  cases ht
  cases hu
  exact delivered_withOp (s := { s with regs := s.regs.latch .alt false (seedLow s.cfg seed) (lenField s.cfg len) })
    hop n (by simp)

/-- Settles O50: either preset latches what ALT latches with its seed, but for OP. -/
theorem presetsEmitWhatAltEmits : Obligations.PresetsEmitWhatAltEmits := by
  intro s t u len n hb hlen
  refine ⟨fun ht hu => ?chk, fun ht hu => ?zo⟩
  case chk => exact delivered_eq_alt (op := .chk) hb hlen (by decide) (seedLow_zextC _).symm ht hu n
  case zo => exact delivered_eq_alt (op := .zo) hb hlen (by decide) seedLow_zero.symm ht hu n

end Sys2Proof.Machine
end

section
/-! Proofs of the statements on one step of the pattern sequence generator (42_pattern_sequence_generator.md). Everything
rests on one fact: the step, which decodes and dispatches, is R153's next-state function, whose branches are the shared
operations on the registers. -/

namespace Sys2Proof.Machine

variable {c : Config}

/-! ### The operands of a legal command (R24 to R26, R77) -/

theorem Opcode.bits_ofBits (b : BitVec 2) : (Opcode.ofBits b).bits = b := by
  revert b
  decide

theorem Opcode.bits_inj {op op' : Opcode} : op.bits = op'.bits ↔ op = op' := by
  cases op <;> cases op' <;> decide

/-- What a control byte writes to POL: P with the OPC of WALK, else 0 (R25). -/
def latchedPol (ctrl : Byte) : Bool := if opcField ctrl = 0b00#2 then ctrl.getLsbD 2 else false

/-- Legal accept of the command on the ports (R143). -/
def Regs.accept (inp : Inputs c) (r : Regs c) : Regs c :=
  r.latch (Opcode.ofBits (opcField inp.cmdCtrl)) (latchedPol inp.cmdCtrl)
    (effSeed c (Opcode.ofBits (opcField inp.cmdCtrl)) inp.cmdSeed) inp.cmdLen

/-- A legal command decodes to one that latches what R143 reads off the ports. -/
theorem decode_of_legal {cmd : Command c} (h : legal cmd.ctrl = true) :
    ∃ i, decode cmd = .ok i ∧ i.opcode = Opcode.ofBits (opcField cmd.ctrl) ∧ i.polarity = latchedPol cmd.ctrl ∧
      effSeed c i.opcode (encodeSeed i) = effSeed c (Opcode.ofBits (opcField cmd.ctrl)) cmd.seed ∧
      i.len = cmd.len.toNat := by
  obtain ⟨ctrl, seed, len⟩ := cmd
  obtain ⟨hr, hpol⟩ := (legal_iff_fields ctrl).mp h
  have hcases : ∀ b : BitVec 2, b = 0b00#2 ∨ b = 0b01#2 ∨ b = 0b10#2 ∨ b = 0b11#2 := by decide
  unfold latchedPol
  obtain ho | ho | ho | ho := hcases (opcField ctrl) <;> simp only [ho] at hpol ⊢
  · exact ⟨_, decode_walk hr ho rfl, rfl, rfl, rfl, rfl⟩
  · exact ⟨_, decode_alt hr ho (by simpa using hpol), rfl, rfl, rfl, rfl⟩
  · exact ⟨_, decode_chk hr ho (by simpa using hpol), rfl, rfl, rfl, rfl⟩
  · exact ⟨_, decode_zo hr ho (by simpa using hpol), rfl, rfl, rfl, rfl⟩

/-- A port's number, put back on the port, is the port's value (R73). -/
theorem lenField_toNat_self (len : BitVec c.LW) : lenField c len.toNat = len :=
  (BitVec.ofNat_toNat _ _).trans (BitVec.setWidth_eq len)

/-! ### The branches of the next-state function (R153) -/

section Branches
variable {inp : Inputs c} {r : Regs c}

theorem Regs.next_of_reset (hrst : inp.rst = true) : r.next inp = Regs.reset c := by
  rw [Regs.next, if_pos hrst]

theorem Regs.next_of_busy (hrst : inp.rst = false) (hb : r.busy = true) : r.next inp = r.outputEdge inp.outReady := by
  rw [Regs.next, if_neg (by simp [hrst]), if_neg (by simp [hb])]
  simp only [Regs.outputEdge, atLastWord, decide_eq_true_eq]
  rfl

theorem Regs.next_of_no_command (hrst : inp.rst = false) (hb : r.busy = false) (hv : inp.cmdValid = false) :
    r.next inp = r := by
  simp [Regs.next, hrst, hb, hv]

theorem Regs.next_of_illegal (hcmd : commandHandshake inp r = true) (hl : legal inp.cmdCtrl = false) :
    r.next inp = r.raiseIllegalCmd inp.cmdCtrl := by
  obtain ⟨hrst, hv, hb⟩ := commandHandshake_iff.mp hcmd
  cases he : r.err <;> simp [Regs.next, Regs.raiseIllegalCmd, hrst, hb, hv, hl, he]

theorem Regs.next_of_legal (hcmd : commandHandshake inp r = true) (hl : legal inp.cmdCtrl = true) :
    r.next inp = r.accept inp := by
  obtain ⟨hrst, hv, hb⟩ := commandHandshake_iff.mp hcmd
  simp only [Regs.next, hrst, hb, hv, hl]
  rfl

/-- The ways the registers can go, said once (R153). -/
theorem Regs.next_cases (inp : Inputs c) (r : Regs c) :
    (inp.rst = true ∧ r.next inp = Regs.reset c) ∨
    (inp.rst = false ∧ r.busy = true ∧ r.next inp = r.outputEdge inp.outReady) ∨
    (inp.rst = false ∧ r.busy = false ∧ inp.cmdValid = false ∧ r.next inp = r) ∨
    (commandHandshake inp r = true ∧ legal inp.cmdCtrl = false ∧ r.next inp = r.raiseIllegalCmd inp.cmdCtrl) ∨
    (commandHandshake inp r = true ∧ legal inp.cmdCtrl = true ∧ r.next inp = r.accept inp) := by
  cases hrst : inp.rst with
  | true => simp [Regs.next_of_reset hrst]
  | false =>
    cases hb : r.busy with
    | true => simp [Regs.next_of_busy hrst hb]
    | false =>
      cases hv : inp.cmdValid with
      | false => simp [Regs.next_of_no_command hrst hb hv]
      | true =>
        have hcmd : commandHandshake inp r = true := commandHandshake_iff.mpr ⟨hrst, hv, hb⟩
        cases hl : legal inp.cmdCtrl with
        | false => simp [hcmd, Regs.next_of_illegal hcmd hl]
        | true => simp [hcmd, Regs.next_of_legal hcmd hl]

end Branches

/-! ### The step is the next-state function (R153) -/

/-- A legal command on an idle block is latched as the ports give it. -/
theorem commandEdge_of_legal {s : State} {inp : Inputs s.cfg} (hb : s.regs.busy = false) (hv : inp.cmdValid = true)
    (hl : legal inp.cmdCtrl = true) :
    commandEdge s inp = .next { s with regs := s.regs.accept inp } := by
  obtain ⟨i, hi, hop, hpol, hseed, hlen⟩ := decode_of_legal (cmd := inp.command) hl
  rw [commandEdge_of_decode_ok hv hi, exec_eq_offerCommand,
    offerCommand_of_idle hb (by simpa [Instr.wellFormed] using decode_wellFormed hi), hseed, hop, hpol, hlen,
    lenField_toNat_self]
  rfl

theorem edge_eq_next (s : State) (inp : Inputs s.cfg) : edge s inp = .next { s with regs := s.regs.next inp } := by
  obtain ⟨hrst, h⟩ | ⟨hrst, hb, h⟩ | ⟨hrst, hb, hv, h⟩ | ⟨hcmd, hl, h⟩ | ⟨hcmd, hl, h⟩ := s.regs.next_cases inp <;> rw [h]
  · exact edge_of_reset hrst
  · exact edge_of_busy hrst hb
  · rw [edge_of_idle hrst hb, commandEdge_of_no_command hv]
  · obtain ⟨hrst, hv, hb⟩ := commandHandshake_iff.mp hcmd
    obtain ⟨e, he⟩ := decode_of_not_legal (cmd := inp.command) hl
    rw [edge_of_idle hrst hb, commandEdge_of_decode_error hv he]
  · obtain ⟨hrst, hv, hb⟩ := commandHandshake_iff.mp hcmd
    rw [edge_of_idle hrst hb, commandEdge_of_legal hb hv hl]

/-- Settles O15, by the branch the edge takes. -/
theorem stepIsTheNextStateFunction : Obligations.StepIsTheNextStateFunction := by
  intro s
  rw [step, edge_eq_next]
  rfl

/-- The step from a state whose registers go to `r`. -/
theorem step_of_next_eq {s : State} {r : Regs s.cfg} (h : s.regs.next s.currentInputs = r) :
    step s = .next ⟨s.cfg, r, s.inputs.tail, s.cycle + 1, s.env⟩ :=
  h ▸ stepIsTheNextStateFunction s

/-! ### The command channel (R142 to R146) -/

/-- Settles O18: R143's registers are the legal branch's. -/
theorem legalAcceptLatchesTheCommand : Obligations.LegalAcceptLatchesTheCommand := by
  intro s hcmd hl
  have hbits := Opcode.bits_ofBits (opcField s.currentInputs.cmdCtrl)
  refine ⟨_, hbits, step_of_next_eq ?_⟩
  rw [Regs.next_of_legal hcmd hl, hbits]
  rfl

/-- Settles O19: the legal branch at length 0, which does not start BUSY. -/
theorem zeroLengthCommandEmitsNothing : Obligations.ZeroLengthCommandEmitsNothing := by
  intro s hcmd hl hlen
  have hnext := Regs.next_of_legal hcmd hl
  rw [Regs.accept, hlen] at hnext
  have hidle : startsBusy (0 : BitVec s.cfg.LW) = false := by simp [startsBusy]
  exact ⟨_, step_of_next_eq hnext, rfl, hidle, hidle, congrArg not hidle⟩

/-- Settles O20: the illegal branch, in which the block stays idle. -/
theorem illegalCommandIsRecordedAndDropped : Obligations.IllegalCommandIsRecordedAndDropped := by
  intro s hcmd hl
  obtain ⟨-, -, hb⟩ := commandHandshake_iff.mp hcmd
  exact ⟨_, step_of_next_eq (Regs.next_of_illegal hcmd hl), rfl, delivery_of_idle hb, hb, congrArg not hb⟩

/-- A busy block reads `rst` and `out_ready` alone (R146). -/
theorem Regs.next_congr_of_busy {inp inp' : Inputs c} {r : Regs c} (hb : r.busy = true) (hrst : inp.rst = inp'.rst)
    (hready : inp.outReady = inp'.outReady) : r.next inp = r.next inp' := by
  cases h : inp.rst with
  | true => rw [Regs.next_of_reset h, Regs.next_of_reset (hrst ▸ h)]
  | false => rw [Regs.next_of_busy h hb, Regs.next_of_busy (hrst ▸ h) hb, hready]

/-- Settles O21: a busy block is not ready, and takes the reset or the output edge. -/
theorem commandPortsAreIgnoredWhileBusy : Obligations.CommandPortsAreIgnoredWhileBusy := by
  intro c r inp inp' rest n env hb
  have hstep (p : Inputs c) : step ⟨c, r, p :: rest, n, env⟩ = .next ⟨c, r.next p, rest, n + 1, env⟩ :=
    stepIsTheNextStateFunction _
  refine ⟨congrArg not hb, by simp [commandHandshake_eq, hb], fun hrst hready => ?_, fun hrst => ?_⟩
  · rw [hstep, hstep, Regs.next_congr_of_busy hb hrst hready]
  · obtain ⟨hop, hpol, hseed, hlen, -⟩ := r.outputEdge_frame inp.outReady
    rw [hstep, Regs.next_of_busy hrst hb]
    exact ⟨_, rfl, hseed, hlen, hop, hpol⟩

/-! ### The output channel (R147 to R152) -/

theorem Regs.next_of_not_last {inp : Inputs c} {r : Regs c} (hout : outputHandshake inp r = true)
    (hlast : atLastWord r = false) : r.next inp = r.advance := by
  obtain ⟨hrst, hb, hready⟩ := outputHandshake_iff.mp hout
  simp [Regs.next_of_busy hrst hb, Regs.outputEdge, hready, hlast]

/-- Settles O22: the busy branch at a handshake before the last is the shared word advance. -/
theorem wordAdvance : Obligations.WordAdvance := by
  intro s hout hidx
  exact ⟨nextShift s.regs.shift, nextShift_toNat _,
    step_of_next_eq (Regs.next_of_not_last hout (decide_eq_false hidx))⟩

/-- Settles O24: the busy branch without `out_ready` is the identity. -/
theorem holdWithoutReady : Obligations.HoldWithoutReady := by
  intro s hb hready hrst
  have hnext : s.regs.next s.currentInputs = s.regs := by
    rw [Regs.next_of_busy hrst hb, hready]
    rfl
  exact ⟨_, step_of_next_eq hnext, rfl, rfl⟩

/-- Settles O31: the ports by definition, `out_data` by BUSY and OP. -/
theorem outputPortsFollowTheRegisters : Obligations.OutputPortsFollowTheRegisters := by
  intro c inp r
  refine ⟨rfl, fun hrst hv => by simp [commandHandshake_iff, hrst, hv], rfl, fun hb => ?idle, fun hb hop => ?walk,
    fun hb hop => ?mux, rfl, rfl, rfl⟩
  case idle => simp [Regs.outData, hb]
  case walk =>
    obtain hwalk : r.op = .walk := Opcode.bits_inj.mp hop
    simp [Regs.outData, hb, hwalk]
  case mux => exact Regs.outData_of_not_walk hb fun hwalk => hop (congrArg Opcode.bits hwalk)

end Sys2Proof.Machine
end

section
/-! Proof of the statement on the invariants of the pattern sequence generator (R154): every branch of the next-state
function keeps them. SHIFT, FLIP and TOGGLE count with IDX; the stream's proof needs that part of them alone. -/

namespace Sys2Proof.Machine

variable {c : Config} {r : Regs c}

/-! ### The counters of a word advance (R29 to R31, R150) -/

/-- SHIFT, FLIP and TOGGLE are the functions of IDX that R154 says they are. -/
structure Regs.Counters (r : Regs c) : Prop where
  shift_eq : r.shift.toNat = r.idx.toNat % c.W
  flip_eq : r.flip = decide ((r.idx.toNat / c.W) % 2 = 1)
  toggle_eq : r.toggle = decide (r.idx.toNat % 2 = 0)

theorem Regs.Inv.counters (h : r.Inv) : r.Counters := ⟨h.shift_eq, h.flip_eq, h.toggle_eq⟩

theorem Regs.counters_reset (c : Config) : (Regs.reset c).Counters := by
  constructor <;> simp

theorem Regs.counters_accept (inp : Inputs c) (r : Regs c) : (r.accept inp).Counters := by
  constructor <;> simp [Regs.accept]

theorem Regs.Counters.complete (h : r.Counters) : r.complete.Counters := ⟨h.shift_eq, h.flip_eq, h.toggle_eq⟩

/-- A lap ends, and the next is of the other kind, exactly after the place W - 1. -/
theorem lap_succ (i : Nat) {w : Nat} (hw : 0 < w) :
    xor (decide (i / w % 2 = 1)) (decide (i % w = w - 1)) = decide ((i + 1) / w % 2 = 1) := by
  have hlap := Nat.div_add_mod i w
  have hmod := Nat.mod_lt i hw
  by_cases hend : i % w = w - 1
  · have hsucc : i + 1 = w * (i / w + 1) := by rw [Nat.mul_succ]; omega
    rw [hsucc, Nat.mul_div_cancel_left _ hw]
    obtain h | h := Nat.mod_two_eq_zero_or_one (i / w) <;> simp [hend, h, Nat.add_mod]
  · have hsucc : (i + 1) / w = i / w :=
      Nat.div_eq_of_lt_le (by rw [Nat.mul_comm]; omega) (by rw [Nat.mul_comm, Nat.mul_succ]; omega)
    simp [hend, hsucc]

theorem parity_succ (i : Nat) : (!decide (i % 2 = 0)) = decide ((i + 1) % 2 = 0) := by
  obtain h | h := Nat.mod_two_eq_zero_or_one i <;> simp [h, Nat.add_mod]

/-- The counters count on with IDX, where it does not wrap (R150). -/
theorem Regs.Counters.advance (h : r.Counters) (hidx : r.idx.toNat + 1 < r.len.toNat) : r.advance.Counters where
  shift_eq := by
    rw [Regs.advance_shift, nextShift_toNat, Regs.advance_idx_toNat hidx, h.shift_eq, Nat.mod_add_mod]
  flip_eq := by
    rw [Regs.advance_flip, nextFlip, Regs.advance_idx_toNat hidx, h.flip_eq, h.shift_eq, lap_succ _ (W_pos c)]
  toggle_eq := by
    rw [Regs.advance_toggle, nextToggle, Regs.advance_idx_toNat hidx, h.toggle_eq, parity_succ]

/-! ### Every branch of the next-state function keeps the invariants (R154) -/

theorem startsBusy_iff {len : BitVec c.LW} : startsBusy len = true ↔ 1 ≤ len.toNat := by
  simp [startsBusy, ← BitVec.toNat_inj, Nat.one_le_iff_ne_zero]

theorem Regs.inv_reset (c : Config) : (Regs.reset c).Inv where
  busy_bounds := by simp
  shift_eq := (Regs.counters_reset c).shift_eq
  flip_eq := (Regs.counters_reset c).flip_eq
  toggle_eq := (Regs.counters_reset c).toggle_eq
  pol_zero := fun _ => rfl
  seed_zero := fun _ => rfl
  seed_chk := by simp
  err_clear := fun _ => rfl
  err_illegal := by simp

theorem Regs.Inv.raiseIllegalCmd (h : r.Inv) {ctrl : Byte} (hl : legal ctrl = false) : (r.raiseIllegalCmd ctrl).Inv where
  __ := h
  err_clear := by simp
  err_illegal := fun _ => by
    rw [Regs.raiseIllegalCmd_errCtrl]
    split_ifs with herr
    · exact h.err_illegal herr
    · exact hl

theorem Regs.Inv.accept (h : r.Inv) (inp : Inputs c) : (r.accept inp).Inv where
  busy_bounds := fun hb => ⟨startsBusy_iff.mp hb, by simp [Regs.accept]⟩
  shift_eq := (r.counters_accept inp).shift_eq
  flip_eq := (r.counters_accept inp).flip_eq
  toggle_eq := (r.counters_accept inp).toggle_eq
  pol_zero := fun hop => if_neg fun hwalk => hop (by rw [Regs.accept, Regs.latch_op, hwalk]; rfl)
  seed_zero := by
    rintro (hop | hop) <;> exact congrArg (effSeed c · inp.cmdSeed) hop
  seed_chk := fun hop => congrArg (effSeed c · inp.cmdSeed) hop
  err_clear := h.err_clear
  err_illegal := h.err_illegal

theorem Regs.Inv.complete (h : r.Inv) : r.complete.Inv where
  __ := h
  busy_bounds := by simp

theorem Regs.Inv.advance (h : r.Inv) (hidx : r.idx.toNat + 1 < r.len.toNat) : r.advance.Inv where
  __ := h
  busy_bounds := fun _ => by
    rw [Regs.advance_idx_toNat hidx, Regs.advance_len]
    omega
  shift_eq := (h.counters.advance hidx).shift_eq
  flip_eq := (h.counters.advance hidx).flip_eq
  toggle_eq := (h.counters.advance hidx).toggle_eq

/-- Before the last word there is a next one (R148). -/
theorem Regs.idx_succ_lt (hidx : r.idx.toNat < r.len.toNat) (hlast : atLastWord r = false) :
    r.idx.toNat + 1 < r.len.toNat := by
  have hne : r.idx.toNat ≠ r.len.toNat - 1 := fun h => by simp [(atLastWord_iff (by omega)).mpr h] at hlast
  omega

theorem Regs.Inv.outputEdge (h : r.Inv) (hb : r.busy = true) (ready : Bool) : (r.outputEdge ready).Inv := by
  obtain ⟨hlen, hidx⟩ := h.busy_bounds hb
  obtain ⟨-, he⟩ | ⟨-, -, he⟩ | ⟨-, hlast, he⟩ := r.outputEdge_cases ready <;> rw [he]
  · exact h
  · exact h.complete
  · exact h.advance (Regs.idx_succ_lt (by omega) hlast)

theorem Regs.Inv.next (h : r.Inv) (inp : Inputs c) : (r.next inp).Inv := by
  obtain ⟨-, he⟩ | ⟨-, hb, he⟩ | ⟨-, -, -, he⟩ | ⟨-, hl, he⟩ | ⟨-, -, he⟩ := r.next_cases inp <;> rw [he]
  · exact Regs.inv_reset c
  · exact h.outputEdge hb inp.outReady
  · exact h
  · exact h.raiseIllegalCmd hl
  · exact h.accept inp

theorem State.Inv.step {s t : State} (h : s.Inv) (hstep : Machine.step s = .next t) : t.Inv := by
  rw [stepIsTheNextStateFunction, Host.Outcome.next.injEq] at hstep
  exact hstep ▸ Regs.Inv.next h s.currentInputs

/-- The invariants hold of every reachable state: a reset edge establishes them, and every step keeps them. -/
theorem Reachable.inv {s : State} (h : Reachable s) : s.Inv := by
  induction h with
  | reset s => exact Regs.inv_reset s.cfg
  | step _ hstep ih => exact ih.step hstep

/-- Settles O45: the invariants, with OP by its bits. -/
theorem reachableStatesMeetTheInvariants : Obligations.ReachableStatesMeetTheInvariants := by
  intro s hs
  have h : s.regs.Inv := hs.inv
  refine ⟨h.busy_bounds, h.shift_eq, h.flip_eq, by rw [h.toggle_eq, decide_eq_true_iff], ?pol, ?seedZero, ?seedChk,
    h.err_clear, h.err_illegal⟩
  case pol =>
    by_cases hop : s.regs.op = .walk
    · exact .inr (congrArg Opcode.bits hop)
    · exact .inl (h.pol_zero hop)
  case seedZero => exact fun hop => h.seed_zero (hop.imp Opcode.bits_inj.mp Opcode.bits_inj.mp)
  case seedChk => exact fun hop => h.seed_chk (Opcode.bits_inj.mp hop)

end Sys2Proof.Machine
end

section
/-! Proof of the statement on the delivered stream of the pattern sequence generator (R155). From its accept edge a
command is served: after `k` ready cycles `k` words are out, and the word on the port is the source's of index `k`. -/

namespace Sys2Proof.Machine

variable {c : Config} {i : Instr} {k n : Nat}

/-! ### The units' words are the source's (R108, R125) -/

/-- The shifter's word has its bit at the lap's place. -/
theorem wbsWord_eq_walkWord (shift : BitVec c.SW) (flip pol : Bool) :
    wbsWord shift flip pol = walkWord c (lapPos c shift.toNat flip) pol := by
  cases pol with
  | true => simp [wbsWord, walkWord, wbsRaw_eq_twoPow, zextC_and_maskW]
  | false => simp [wbsWord, walkWord, wbsRaw_eq_twoPow, not_zextC_and_maskW]

theorem wbsWord_eq_walkElem {shift : BitVec c.SW} {flip : Bool} (hshift : shift.toNat = k % c.W)
    (hflip : flip = decide ((k / c.W) % 2 = 1)) (pol : Bool) : wbsWord shift flip pol = walkElem c k pol := by
  rw [wbsWord_eq_walkWord, walkElem_eq_walkWord, walkPos_eq_lapPos, hshift, hflip]
  rfl

theorem awmWord_eq_altElem {toggle : Bool} (htoggle : toggle = decide (k % 2 = 0)) (seed : BitVec c.W) :
    awmWord seed toggle = altElem c k seed := by
  rw [awmWord_eq_zextC, altElem_eq_zextC, htoggle]
  simp only [decide_eq_true_eq]

/-! ### The source's sequence word by word (R51, R148) -/

/-- The source's word of index `k` of a command, from what the command latches. -/
def commandWord (c : Config) (i : Instr) (k : Nat) : Word :=
  if i.opcode = .walk then walkElem c k i.polarity else altElem c k (effSeed c i.opcode (encodeSeed i))

theorem commandWords_eq_map (c : Config) (i : Instr) :
    commandWords c i = (List.range i.len).map (commandWord c i) := by
  cases i <;> rfl

theorem withLast_commandWords_eq_map (c : Config) (i : Instr) :
    withLast (commandWords c i) = (List.range i.len).map fun k => (commandWord c i k, decide (k + 1 = i.len)) := by
  apply List.ext_getElem <;> simp [withLast, commandWords_eq_map]

/-- Past `k` words come word `k` and what is past `k + 1`. -/
theorem drop_withLast_commandWords (hk : k < i.len) :
    (withLast (commandWords c i)).drop k =
      (commandWord c i k, decide (k + 1 = i.len)) :: (withLast (commandWords c i)).drop (k + 1) := by
  have hlen : k < (withLast (commandWords c i)).length := by simpa [withLast_commandWords_eq_map] using hk
  rw [List.drop_eq_getElem_cons hlen]
  simp [withLast_commandWords_eq_map]

/-! ### The registers while a command is served (R154, R155) -/

/-- The block serves command `i` and `k` of its words are out; when all are, BUSY is 0. -/
structure Regs.Serves (i : Instr) (k : Nat) (r : Regs c) : Prop where
  le : k ≤ i.len
  busy_eq : r.busy = decide (k < i.len)
  op_eq : r.op = i.opcode
  pol_eq : r.pol = i.polarity
  seed_eq : r.seed = effSeed c i.opcode (encodeSeed i)
  len_eq : r.len.toNat = i.len
  idx_eq : k < i.len → r.idx.toNat = k
  counters : r.Counters

variable {r : Regs c}

theorem Regs.Serves.busy (h : r.Serves i k) (hk : k < i.len) : r.busy = true := h.busy_eq.trans (decide_eq_true hk)

theorem Regs.Serves.outData (h : r.Serves i k) (hk : k < i.len) : r.outData = commandWord c i k := by
  have hidx := h.idx_eq hk
  obtain ⟨hshift, hflip, htoggle⟩ := h.counters
  rw [hidx] at hshift hflip htoggle
  obtain ⟨hb, -⟩ | ⟨-, hop, hdata⟩ | ⟨-, hop, hdata⟩ := r.outData_cases
  · simp [h.busy hk] at hb
  · rw [hdata, wbsWord_eq_walkElem hshift hflip, commandWord, if_pos (h.op_eq ▸ hop), h.pol_eq]
  · rw [hdata, awmWord_eq_altElem htoggle, commandWord, if_neg (h.op_eq ▸ hop), h.seed_eq]

theorem Regs.Serves.atLastWord_eq (h : r.Serves i k) (hk : k < i.len) : atLastWord r = decide (k + 1 = i.len) := by
  have hlen := h.len_eq
  rw [Bool.eq_iff_iff, atLastWord_iff (by omega), decide_eq_true_iff, h.idx_eq hk]
  omega

/-- A ready consumer takes word `k` with its `out_last` (R148, R149). -/
theorem Regs.Serves.delivery (h : r.Serves i k) (hk : k < i.len) {inp : Inputs c} (hrst : inp.rst = false)
    (hready : inp.outReady = true) :
    Machine.delivery inp r = some (commandWord c i k, decide (k + 1 = i.len)) := by
  have hb := h.busy hk
  rw [delivery_of_handshake (outputHandshake_iff.mpr ⟨hrst, hb, hready⟩), Regs.outputs_outData, h.outData hk,
    ← h.atLastWord_eq hk]
  simp [Regs.outputs, Regs.outLast, hb]

/-- After it one word more is out. -/
theorem Regs.Serves.outputEdge_ready (h : r.Serves i k) (hk : k < i.len) : (r.outputEdge true).Serves i (k + 1) := by
  have hidx := h.idx_eq hk
  have hlen := h.len_eq
  obtain ⟨hready, -⟩ | ⟨-, hlast, he⟩ | ⟨-, hlast, he⟩ := r.outputEdge_cases true
  · cases hready
  · have hend : k + 1 = i.len := by simpa [h.atLastWord_eq hk] using hlast
    rw [he]
    exact { h with
      le := hend.le
      busy_eq := by simp [hend]
      idx_eq := fun hk' => absurd hend hk'.ne
      counters := h.counters.complete }
  · have hnext : k + 1 < i.len := by
      have := Regs.idx_succ_lt (by omega) hlast
      omega
    rw [he]
    exact { h with
      le := hnext.le
      busy_eq := (h.busy hk).trans (decide_eq_true hnext).symm
      idx_eq := fun _ => by rw [Regs.advance_idx_toNat (by omega), hidx]
      counters := h.counters.advance (by omega) }

theorem legal_of_decode {cmd : Command c} (h : decode cmd = .ok i) : legal cmd.ctrl = true := by
  obtain ⟨e, he, -⟩ | ⟨-, -, hl, -⟩ := decode_cases cmd
  · simp [he] at h
  · exact hl

/-- The accept edge starts the service (R143, R144). -/
theorem Regs.serves_accept {inp : Inputs c} (hi : decode inp.command = .ok i) (r : Regs c) :
    (r.accept inp).Serves i 0 := by
  obtain ⟨j, hj, hop, hpol, hseed, hlen⟩ := decode_of_legal (legal_of_decode hi)
  obtain rfl : j = i := by simpa [hj] using hi
  exact {
    le := Nat.zero_le _
    busy_eq := by rw [Bool.eq_iff_iff, hlen, decide_eq_true_iff]; exact startsBusy_iff
    op_eq := hop.symm
    pol_eq := hpol.symm
    seed_eq := hseed.symm
    len_eq := hlen.symm
    idx_eq := fun _ => by simp [Regs.accept]
    counters := r.counters_accept inp }

/-! ### Runs (R153, R155) -/

/-- The state after one step, which always is (R153). -/
def State.after (s : State) : State :=
  ⟨s.cfg, s.regs.next s.currentInputs, s.inputs.tail, s.cycle + 1, s.env⟩

theorem step_eq_after (s : State) : step s = .next s.after := stepIsTheNextStateFunction s

/-- Every run ends in a state. -/
theorem run_total (n : Nat) (s : State) : ∃ u, Sys2Proof.core.run n s = .next u := by
  induction n generalizing s with
  | zero => exact ⟨s, rfl⟩
  | succ n ih => rw [run_succ_of_next (step_eq_after s)]; exact ih s.after

theorem readyCycles_mono {m : Nat} (hmn : m ≤ n) (s : State) : readyCycles m s ≤ readyCycles n s :=
  (List.range_sublist.mpr hmn).countP_le

theorem readyCycles_succ_of_ready {s : State} (h : s.currentInputs.outReady = true) (n : Nat) :
    readyCycles (n + 1) s = 1 + readyCycles n s.after := by
  rw [readyCycles_succ_of_next (step_eq_after s), if_pos h]

theorem readyCycles_succ_of_not_ready {s : State} (h : s.currentInputs.outReady = false) (n : Nat) :
    readyCycles (n + 1) s = readyCycles n s.after := by
  rw [readyCycles_succ_of_next (step_eq_after s), if_neg (by simp [h]), Nat.zero_add]

section Served
variable {s : State}

/-- A cycle with `out_ready` = 1 while words are left. -/
theorem serves_after_of_ready (h : s.regs.Serves i k) (hk : k < i.len) (hrst : s.currentInputs.rst = false)
    (hready : s.currentInputs.outReady = true) : s.after.regs.Serves i (k + 1) := by
  have hnext : s.after.regs = s.regs.outputEdge true := hready ▸ Regs.next_of_busy hrst (h.busy hk)
  exact hnext ▸ h.outputEdge_ready hk

/-- A cycle with `out_ready` = 0 while words are left (R152). -/
theorem serves_after_of_not_ready (h : s.regs.Serves i k) (hk : k < i.len) (hrst : s.currentInputs.rst = false)
    (hready : s.currentInputs.outReady = false) : s.after.regs.Serves i k := by
  have hnext : s.after.regs = s.regs.outputEdge false := hready ▸ Regs.next_of_busy hrst (h.busy hk)
  exact hnext ▸ h

/-- The words still to come are the rest of the source's sequence, one for each ready cycle. -/
theorem delivered_of_serves (n : Nat) (h : s.regs.Serves i k) (hn : NoReset n s) :
    (delivered n s).take (i.len - k) = ((withLast (commandWords s.cfg i)).drop k).take (readyCycles n s) := by
  induction n generalizing s k with
  | zero => simp [delivered, readyCycles]
  | succ n ih =>
    obtain ⟨hrst, hn'⟩ := noReset_succ_of_next (step_eq_after s) hn
    rw [delivered_succ_of_next (step_eq_after s)]
    obtain hk | rfl := h.le.lt_or_eq
    · cases hready : s.currentInputs.outReady with
      | false =>
        rw [delivery_of_not_ready hready, readyCycles_succ_of_not_ready hready]
        exact ih (serves_after_of_not_ready h hk hrst hready) hn'
      | true =>
        have hleft : i.len - k = i.len - (k + 1) + 1 := by omega
        rw [h.delivery hk hrst hready, readyCycles_succ_of_ready hready, drop_withLast_commandWords hk, hleft,
          Nat.add_comm 1]
        exact congrArg (_ :: ·) (ih (serves_after_of_ready h hk hrst hready) hn')
    · simp [withLast_commandWords_eq_map]

/-- Each ready cycle of a run takes a word, while words are left. -/
theorem serves_of_run {u : State} (h : s.regs.Serves i k) (hn : NoReset n s)
    (hleft : ∀ m, m < n → k + readyCycles m s < i.len) (hrun : Sys2Proof.core.run n s = .next u) :
    u.regs.Serves i (k + readyCycles n s) := by
  induction n generalizing s k with
  | zero =>
    obtain rfl : s = u := Host.Outcome.next.inj hrun
    exact h
  | succ n ih =>
    obtain ⟨hrst, hn'⟩ := noReset_succ_of_next (step_eq_after s) hn
    rw [run_succ_of_next (step_eq_after s)] at hrun
    have hk : k < i.len := hleft 0 (Nat.succ_pos n)
    have hleft' (m : Nat) (hm : m < n) := hleft (m + 1) (Nat.succ_lt_succ hm)
    cases hready : s.currentInputs.outReady with
    | false =>
      simp only [readyCycles_succ_of_not_ready hready] at hleft' ⊢
      exact ih (serves_after_of_not_ready h hk hrst hready) hn' hleft' hrun
    | true =>
      simp only [readyCycles_succ_of_ready hready, ← Nat.add_assoc] at hleft' ⊢
      exact ih (serves_after_of_ready h hk hrst hready) hn' hleft' hrun

/-- A block that accepts a command serves it from the next cycle on. -/
theorem serves_of_accept {t : State} (hcmd : commandHandshake s.currentInputs s.regs = true)
    (hi : decode s.currentInputs.command = .ok i) (hstep : step s = .next t) :
    t.cfg = s.cfg ∧ t.regs.Serves i 0 := by
  obtain rfl : s.after = t := Host.Outcome.next.inj ((step_eq_after s).symm.trans hstep)
  have hnext : s.after.regs = s.regs.accept s.currentInputs :=
    Regs.next_of_legal hcmd (legal_of_decode (cmd := s.currentInputs.command) hi)
  exact ⟨rfl, hnext ▸ s.regs.serves_accept hi⟩

end Served

/-- Settles O47: the accepted command is served, word for word and register for register. -/
theorem deliveredStreamIsTheSourcesSequence : Obligations.DeliveredStreamIsTheSourcesSequence := by
  intro s t i n hcmd hi hstep hn
  obtain ⟨hcfg, h⟩ := serves_of_accept hcmd hi hstep
  obtain ⟨u, hrun⟩ := run_total n t
  have hserves (hleft : ∀ m, m < n → readyCycles m t < i.len) : u.regs.Serves i (readyCycles n t) := by
    simpa using serves_of_run h hn (by simpa using hleft) hrun
  refine ⟨by simpa [hcfg] using delivered_of_serves n h hn, u, hrun, fun hlt => ?going, fun hleft hall => ?done⟩
  case going =>
    have hu := hserves fun m hm => (readyCycles_mono hm.le t).trans_lt hlt
    exact ⟨hu.busy hlt, hu.idx_eq hlt⟩
  case done => simp [(hserves hleft).busy_eq, hall]

end Sys2Proof.Machine
end

section
/-! Proof of the statement on exceptions (60_exceptions.md): the two handshakes exclude each other, and reset overrides
both and ILLEGAL_CMD (R177). -/

namespace Sys2Proof.Machine

variable {c : Config} {inp : Inputs c} {r : Regs c}

/-- No command is accepted at a reset edge (R191). -/
theorem commandHandshake_of_reset (hrst : inp.rst = true) : commandHandshake inp r = false := by
  simp [commandHandshake, hrst]

/-- No word is taken at a reset edge (R191). -/
theorem outputHandshake_of_reset (hrst : inp.rst = true) : outputHandshake inp r = false := by
  simp [outputHandshake, hrst]

/-- A command handshake needs BUSY = 0 and an output handshake BUSY = 1 (R177). -/
theorem outputHandshake_of_commandHandshake (hcmd : commandHandshake inp r = true) : outputHandshake inp r = false := by
  obtain ⟨-, -, hidle⟩ := commandHandshake_iff.mp hcmd
  refine Bool.eq_false_iff.mpr fun hout => ?_
  obtain ⟨-, hbusy, -⟩ := outputHandshake_iff.mp hout
  exact Bool.false_ne_true (hidle.symm.trans hbusy)

/-- With ERR = 0 no exception has occurred since reset (R170). -/
theorem Regs.cause_of_no_error (herr : r.err = false) : r.cause = none := by
  simp [Regs.cause, herr]

/-- A step at a reset edge leaves RESET_STATE in the registers (R190). -/
theorem regs_of_step_reset {s t : State} (hrst : s.currentInputs.rst = true) (hstep : step s = .next t) :
    t.regs = Regs.reset t.cfg := by
  have hreset := step_of_next_eq (Regs.next_of_reset (r := s.regs) hrst)
  obtain rfl := Host.Outcome.next.inj (hreset.symm.trans hstep)
  rfl

/-- Settles O26: BUSY separates the two handshakes, and a reset edge takes neither and leaves ERR = 0. -/
theorem handshakesExcludeEachOther : Obligations.HandshakesExcludeEachOther := by
  refine ⟨fun c inp r => ⟨?exclusive, ?overridden⟩, fun s t hrst hstep => ?cleared, fun k => ?onlyCause⟩
  case exclusive =>
    cases hcmd : commandHandshake inp r with
    | false => exact Bool.false_and _
    | true => exact outputHandshake_of_commandHandshake hcmd
  case overridden => exact fun hrst => ⟨commandHandshake_of_reset hrst, outputHandshake_of_reset hrst⟩
  case cleared =>
    have herr : t.regs.err = false := by rw [regs_of_step_reset hrst hstep, Regs.reset_err]
    exact ⟨herr, Regs.cause_of_no_error herr⟩
  case onlyCause =>
    cases k with
    | illegalCmd => rfl

end Sys2Proof.Machine
end

section
/-! Proof of the statement on reset (70_reset_and_hazards.md): what a reset edge leaves, and what the ports show after it
(R190, R191). -/

namespace Sys2Proof.Machine

/-- The first cycle after reset: ready for a command, no word offered, no error (R190). -/
theorem Regs.outputs_reset (c : Config) :
    (Regs.reset c).outputs = ⟨true, false, 0x00000000#32, false, false, 0x00#8⟩ := rfl

/-- Settles O25: the step goes to RESET_STATE, which the reset branch of the next-state function names. -/
theorem resetEdgeLeavesResetState : Obligations.ResetEdgeLeavesResetState := by
  intro s hrst
  have hstep := step_of_next_eq (Regs.next_of_reset (r := s.regs) hrst)
  exact ⟨commandHandshake_of_reset hrst, outputHandshake_of_reset hrst, _, hstep,
    rfl, rfl, rfl, BitVec.toNat_zero, BitVec.toNat_zero, BitVec.toNat_zero, BitVec.toNat_zero, rfl, rfl, rfl, rfl,
    Regs.outputs_reset s.cfg, Regs.inv_reset s.cfg⟩

end Sys2Proof.Machine
end

section
/-! Proofs of the statements on the encoder (30_encoding.md): a command's packed word decodes to it (R66), a decoded
command encodes to the ports it came from (R72, R78), and the rows of opcode_table.json are the decoder's branches. -/

namespace Sys2Proof

variable {c : Config} {cmd : Command c} {ctrl : Byte} {i : Instr}

/-! ### From a command to its word and back (R66, R77) -/

theorem Instr.wellFormed_iff : i.wellFormed c = true ↔ i.len < 2 ^ c.LW := decide_eq_true_iff

theorem encode_len_toNat (h : i.wellFormed c = true) : (encode c i).len.toNat = i.len :=
  Machine.lenField_toNat (Instr.wellFormed_iff.mp h)

/-- The encoder's control byte is the command's opcode and polarity, in their places (R67). -/
theorem encodeCtrl_eq_fields (i : Instr) :
    encodeCtrl i = 0b00000#5 ++ BitVec.ofBool i.polarity ++ i.opcode.bits := by
  cases i <;> rfl

theorem opcField_encodeCtrl (i : Instr) : opcField (encodeCtrl i) = i.opcode.bits := by
  rw [encodeCtrl_eq_fields]
  exact BitVec.extractLsb'_append_eq_right

theorem polField_encodeCtrl (i : Instr) : polField (encodeCtrl i) = i.polarity := by
  rw [encodeCtrl_eq_fields, polField, BitVec.getLsbD_append, if_neg (by decide), BitVec.getLsbD_append,
    if_pos (by decide), BitVec.getLsbD_ofBool]
  rfl

/-- The encoder's ports take the decoder's branch of the command. -/
theorem decode_encode (h : i.wellFormed c = true) : decode (encode c i) = .ok i := by
  have hlen := encode_len_toNat h
  obtain ⟨hr, -⟩ := encodeCtrl_fields i
  have ho := opcField_encodeCtrl i
  have hp := polField_encodeCtrl i
  cases i with
  | walk pol len => exact (decode_walk hr ho hp).trans (congrArg (Except.ok ∘ Instr.walk pol) hlen)
  | alt seed len => exact (decode_alt hr ho hp).trans (congrArg (Except.ok ∘ Instr.alt seed) hlen)
  | chk len => exact (decode_chk hr ho hp).trans (congrArg (Except.ok ∘ Instr.chk) hlen)
  | zo len => exact (decode_zo hr ho hp).trans (congrArg (Except.ok ∘ Instr.zo) hlen)

/-- Settles O1: the packed word unpacks to the encoder's ports, and these decode to the command. -/
theorem decodeOfEncodedWordIsTheCommand : Obligations.DecodeOfEncodedWordIsTheCommand := by
  intro c i h
  rw [decodeWord, encodeWord, unpack_pack, decode_encode h]

/-- Settles O6: each word by evaluation of the decoder. -/
theorem sampleWordsDecode : Obligations.SampleWordsDecode :=
  ⟨rfl, rfl, rfl, rfl, rfl, rfl⟩

/-! ### From the ports to a command and back (R67, R72, R78) -/

/-- A control byte is its three fields (R67). -/
theorem ctrl_eq_fields (ctrl : Byte) : rsvField ctrl ++ BitVec.ofBool (polField ctrl) ++ opcField ctrl = ctrl := by
  have hpol : BitVec.ofBool (polField ctrl) = ctrl.extractLsb' 2 1 := by
    ext k hk
    obtain rfl : k = 0 := by omega
    simp [polField]
  rw [rsvField, opcField, hpol,
    BitVec.extractLsb'_append_extractLsb'_eq_extractLsb' (start₁ := 2) (len₁ := 1) rfl,
    BitVec.extractLsb'_append_extractLsb'_eq_extractLsb' (start₁ := 0) (len₁ := 2) rfl]
  exact BitVec.extractLsb'_eq_self

/-- What a decoded command is, in the fields of its ports. -/
theorem fields_of_decode (h : decode cmd = .ok i) :
    rsvField cmd.ctrl = 0b00000#5 ∧ polField cmd.ctrl = i.polarity ∧ opcField cmd.ctrl = i.opcode.bits ∧
    encodeSeed i = (if opcField cmd.ctrl = 0b01#2 then cmd.seed else 0) ∧ i.len = cmd.len.toNat := by
  obtain ⟨ctrl, seed, len⟩ := cmd
  obtain ⟨hr, hpol⟩ := (legal_iff_fields ctrl).mp (Machine.legal_of_decode h)
  have hcases : ∀ b : BitVec 2, b = 0b00#2 ∨ b = 0b01#2 ∨ b = 0b10#2 ∨ b = 0b11#2 := by decide
  have hp (ho : opcField ctrl ≠ 0b00#2) : polField ctrl = false := hpol.resolve_left ho
  obtain ho | ho | ho | ho := hcases (opcField ctrl)
  · obtain rfl := Except.ok.inj ((decode_walk hr ho rfl).symm.trans h)
    exact ⟨hr, rfl, ho, by simp [ho, encodeSeed], rfl⟩
  · obtain rfl := Except.ok.inj ((decode_alt hr ho (hp (by simp [ho]))).symm.trans h)
    exact ⟨hr, hp (by simp [ho]), ho, by simp [ho, encodeSeed], rfl⟩
  · obtain rfl := Except.ok.inj ((decode_chk hr ho (hp (by simp [ho]))).symm.trans h)
    exact ⟨hr, hp (by simp [ho]), ho, by simp [ho, encodeSeed], rfl⟩
  · obtain rfl := Except.ok.inj ((decode_zo hr ho (hp (by simp [ho]))).symm.trans h)
    exact ⟨hr, hp (by simp [ho]), ho, by simp [ho, encodeSeed], rfl⟩

theorem encodeCtrl_of_decode (h : decode cmd = .ok i) : encodeCtrl i = cmd.ctrl := by
  obtain ⟨hr, hp, ho, -⟩ := fields_of_decode h
  rw [encodeCtrl_eq_fields, ← hr, ← hp, ← ho, ctrl_eq_fields]

/-- Settles O2, port by port. -/
theorem encodeOfDecodedCommandKeepsItsFields : Obligations.EncodeOfDecodedCommandKeepsItsFields := by
  intro c cmd i h
  obtain ⟨-, -, -, hseed, hlen⟩ := fields_of_decode h
  refine ⟨decode_wellFormed h, ?_⟩
  rw [encode, encodeCtrl_of_decode h, hseed, hlen]
  exact congrArg (Command.mk _ _) (Machine.lenField_toNat_self cmd.len)

/-! ### The opcode table (R74) -/

/-- Every row's mask reads RSV and OPC whole, and P but for WALK; its pattern has RSV zero, and P clear where read. -/
theorem opcodeTable_fields : ∀ row ∈ opcodeTable,
    rsvField row.mask = BitVec.allOnes 5 ∧ opcField row.mask = BitVec.allOnes 2 ∧ rsvField row.pattern = 0b00000#5 ∧
    (opcField row.pattern = 0b00#2 ∨ polField row.mask = true ∧ polField row.pattern = false) := by
  decide

/-- No row covers an illegal byte. -/
theorem legal_of_covers {row : OpcodeRow} (hrow : row ∈ opcodeTable) (h : row.covers ctrl = true) :
    legal ctrl = true := by
  obtain ⟨hrsv, hopc, hrsv', hpol⟩ := opcodeTable_fields row hrow
  have hpattern : row.pattern = ctrl &&& row.mask := (beq_iff_eq.mp h).symm
  rw [hpattern] at hrsv' hpol
  rw [legal_iff_fields]
  rw [rsvField, BitVec.extractLsb'_and, ← rsvField, ← rsvField, hrsv, BitVec.and_allOnes] at hrsv'
  rw [opcField, BitVec.extractLsb'_and, ← opcField, ← opcField, hopc, BitVec.and_allOnes] at hpol
  refine ⟨hrsv', hpol.imp_right fun ⟨hmask, hclear⟩ => ?_⟩
  rw [polField, BitVec.getLsbD_and, ← polField, ← polField, hmask, Bool.and_true] at hclear
  exact hclear

/-- A command's own control byte is covered by the rows of its opcode alone. -/
theorem encodingInTable (i : Instr) : Laws.EncodingInTable.Statement i := by
  cases i with
  | walk pol len => exact Laws.EncodingInTable.walk pol len
  | alt seed len => exact Laws.EncodingInTable.alt seed len
  | chk len => exact Laws.EncodingInTable.chk len
  | zo len => exact Laws.EncodingInTable.zo len

theorem covers_of_decode (h : decode cmd = .ok i) {row : OpcodeRow} (hrow : row ∈ opcodeTable) :
    row.covers cmd.ctrl = (row.opcode == i.opcode) := by
  obtain ⟨-, hcovers⟩ := encodingInTable i
  rw [← encodeCtrl_of_decode h, hcovers row hrow]

/-- Settles O5: a covered byte is legal and so decodes, and a byte that decodes is the encoder's own. -/
theorem opcodeTableAgreesWithTheDecoder : Obligations.OpcodeTableAgreesWithTheDecoder := by
  intro c cmd row hrow
  constructor
  · intro hcovers
    obtain ⟨i, hi, -⟩ := Machine.decode_of_legal (cmd := cmd) (legal_of_covers hrow hcovers)
    rw [covers_of_decode hi hrow, beq_iff_eq] at hcovers
    exact ⟨i, hi, hcovers.symm⟩
  · rintro ⟨i, hi, hop⟩
    rw [covers_of_decode hi hrow, hop, beq_self_eq_true]

end Sys2Proof
end

section
/-! Proofs of the statements on the commands at the accept edge (R107, R122 to R124, R146): the four commands are one
shared offer, which an idle block latches, a busy one leaves waiting, and whose length the port must hold. -/

namespace Sys2Proof.Machine

variable {c : Config} {i : Instr} {s : State}

/-! ### The operands that are latched (R72, R121, R144) -/

theorem startsBusy_lenField {len : Nat} (hlen : len < 2 ^ c.LW) :
    startsBusy (lenField c len) = decide (len ≠ 0) := by
  rw [Bool.eq_iff_iff, startsBusy_iff, lenField_toNat hlen, decide_eq_true_iff, Nat.one_le_iff_ne_zero]

theorem seedLow_eq_setWidth (seed : Word) : seedLow c seed = seed.setWidth c.W :=
  (BitVec.setWidth_eq_extractLsb' (W_le c)).symm

/-- CHK_W is the low W bits of the 32-bit checkerboard (R11). -/
theorem chkW_eq_ofNat (c : Config) : chkW c = BitVec.ofNat c.W 0xAAAAAAAA := by
  apply BitVec.eq_of_toNat_eq
  rw [chkW_toNat, BitVec.toNat_ofNat]
  cases h : c.width with
  | w16 => simp [Config.W, PatternWidth.bits, h, repeatNibbleA_four]
  | w32 => simp [Config.W, PatternWidth.bits, h, repeatNibbleA_eight]

/-! ### One command (R142, R143, R146) -/

/-- An idle block latches a command whose length fits. -/
theorem exec_of_idle (hb : s.regs.busy = false) (hlen : i.len < 2 ^ s.cfg.LW) :
    exec i s = .next { s with regs := { s.regs.latch i.opcode i.polarity (effSeed s.cfg i.opcode (encodeSeed i))
      (lenField s.cfg i.len) with busy := decide (i.len ≠ 0) } } := by
  rw [exec_eq_offerCommand, offerCommand_of_idle hb hlen, ← startsBusy_lenField hlen]
  rfl

/-- Settles O7: WALK's own operands in what an idle block latches. -/
theorem walkIsLatched : Obligations.WalkIsLatched := fun _ pol len hb hlen =>
  exec_of_idle (i := .walk pol len) hb hlen

/-- Settles O8: ALT's own operands in what an idle block latches, its seed cut to W bits. -/
theorem altIsLatched : Obligations.AltIsLatched := by
  intro s seed len hb hlen
  rw [exec_of_idle (i := .alt seed len) hb hlen, ← seedLow_eq_setWidth]
  rfl

/-- Settles O9: CHK's own operands in what an idle block latches, its seed the checkerboard. -/
theorem chkIsLatched : Obligations.ChkIsLatched := by
  intro s len hb hlen
  rw [exec_of_idle (i := .chk len) hb hlen, ← chkW_eq_ofNat]
  rfl

/-- Settles O10: ZO's own operands in what an idle block latches. -/
theorem zoIsLatched : Obligations.ZoIsLatched := fun _ len hb hlen =>
  exec_of_idle (i := .zo len) hb hlen

/-- Settles O11: the frame of the shared offer. -/
theorem commandsLeaveErrorAndInputsAlone : Obligations.CommandsLeaveErrorAndInputsAlone := by
  intro i s t h
  rw [exec_eq_offerCommand] at h
  exact offerCommand_frame h

/-- Settles O12: a busy block leaves the offer waiting. -/
theorem commandWaitsWhileBusy : Obligations.CommandWaitsWhileBusy := by
  intro i s hwf hb
  rw [exec_eq_offerCommand, offerCommand, if_pos (Instr.wellFormed_iff.mp hwf), if_pos hb]

/-- Settles O13: the offer asks first whether the port holds the length. -/
theorem unrepresentableLengthIsRefused : Obligations.UnrepresentableLengthIsRefused := by
  intro i s hlen
  rw [exec_eq_offerCommand, offerCommand, if_neg (Nat.not_lt.mpr hlen)]

/-- Settles O14: at a command handshake the edge is the command edge of an idle block, which runs the command. -/
theorem stepRunsTheDecodedCommand : Obligations.StepRunsTheDecodedCommand := by
  intro s i hcmd hi t hexec
  obtain ⟨hrst, hv, hb⟩ := commandHandshake_iff.mp hcmd
  rw [step, edge_of_idle hrst hb, commandEdge_of_decode_ok hv hi, hexec, passCycle_next]
  rfl

end Sys2Proof.Machine
end

section
/-! Proofs of the further statements on one step (10_state.md, 42_pattern_sequence_generator.md): the inputs a step uses
up, when OP, POL, SEED, LEN and BUSY change, and the ports that an edge does not sample. -/

namespace Sys2Proof.Machine

variable {c : Config} {inp : Inputs c} {r : Regs c}

/-- Settles O17: a step passes the cycle, whatever it does to the registers. -/
theorem stepUsesUpOneCycleOfInputs : Obligations.StepUsesUpOneCycleOfInputs := by
  intro s t hstep
  obtain rfl : s.after = t := Host.Outcome.next.inj ((step_eq_after s).symm.trans hstep)
  exact ⟨rfl, rfl, rfl, fun k => heq_of_eq (State.nextCycle_inputsAt s k)⟩

/-! ### The latched command (R24 to R27) -/

/-- Without reset and legal accept the registers keep the latched command. -/
theorem Regs.next_keeps_command (hrst : inp.rst = false)
    (hacc : (commandHandshake inp r && legal inp.cmdCtrl) = false) :
    (r.next inp).op = r.op ∧ (r.next inp).pol = r.pol ∧ (r.next inp).seed = r.seed ∧ (r.next inp).len = r.len := by
  obtain ⟨hr, -⟩ | ⟨-, -, he⟩ | ⟨-, -, -, he⟩ | ⟨-, -, he⟩ | ⟨hcmd, hl, -⟩ := r.next_cases inp
  · simp [hrst] at hr
  · obtain ⟨hop, hpol, hseed, hlen, -⟩ := r.outputEdge_frame inp.outReady
    rw [he]
    exact ⟨hop, hpol, hseed, hlen⟩
  · rw [he]
    exact ⟨rfl, rfl, rfl, rfl⟩
  · rw [he]
    exact ⟨rfl, rfl, rfl, rfl⟩
  · simp [hcmd, hl] at hacc

/-- Settles O28, on the next registers. -/
theorem onlyLegalAcceptWritesTheLatchedCommand : Obligations.OnlyLegalAcceptWritesTheLatchedCommand :=
  fun _ hrst hacc => ⟨_, step_of_next_eq rfl, Regs.next_keeps_command hrst hacc⟩

/-! ### BUSY (R23, R140, R156) -/

/-- The handshake of the last word completes the command (R151). -/
theorem Regs.next_of_last (hout : outputHandshake inp r = true) (hlast : atLastWord r = true) :
    r.next inp = r.complete := by
  obtain ⟨hrst, hb, hready⟩ := outputHandshake_iff.mp hout
  simp [Regs.next_of_busy hrst hb, Regs.outputEdge, hready, hlast]

theorem Regs.outLast_iff : r.outputs.outLast = true ↔ r.busy = true ∧ atLastWord r = true := by
  simp [Regs.outputs, Regs.outLast]

/-- Settles O23: the busy branch at the last word, after which the block is idle. -/
theorem lastWordCompletesTheSequence : Obligations.LastWordCompletesTheSequence := by
  intro s hout hlast
  obtain ⟨-, hlast⟩ := Regs.outLast_iff.mp hlast
  exact ⟨_, step_of_next_eq (Regs.next_of_last hout hlast), rfl, rfl, rfl, fun _ => delivery_of_idle rfl⟩

theorem startsBusy_iff_ne_zero {len : BitVec c.LW} : startsBusy len = true ↔ len ≠ 0 := decide_eq_true_iff

/-- From an idle block BUSY rises exactly at the legal accept of a non-zero length. -/
theorem Regs.next_busy_of_idle (hrst : inp.rst = false) (hb : r.busy = false) :
    (r.next inp).busy = true ↔ commandHandshake inp r = true ∧ legal inp.cmdCtrl = true ∧ inp.cmdLen ≠ 0 := by
  obtain ⟨hr, -⟩ | ⟨-, hb', -⟩ | ⟨-, -, hv, he⟩ | ⟨-, hl, he⟩ | ⟨hcmd, hl, he⟩ := r.next_cases inp
  · simp [hrst] at hr
  · simp [hb] at hb'
  · simp [he, hb, commandHandshake_iff, hv]
  · simp [he, hb, hl]
  · rw [he, Regs.accept, Regs.latch_busy, startsBusy_iff_ne_zero]
    simp [hcmd, hl]

/-- From a busy block BUSY falls exactly at the handshake of the last word. -/
theorem Regs.next_not_busy_of_busy (hrst : inp.rst = false) (hb : r.busy = true) :
    (r.next inp).busy = false ↔ outputHandshake inp r = true ∧ r.outputs.outLast = true := by
  rw [Regs.next_of_busy hrst hb, outputHandshake_iff, Regs.outLast_iff]
  obtain ⟨hready, he⟩ | ⟨hready, hlast, he⟩ | ⟨hready, hlast, he⟩ := r.outputEdge_cases inp.outReady <;> rw [he]
  · simp [hb, hready]
  · simp [hb, hrst, hready, hlast]
  · simp [hb, hlast]

/-- Settles O29: each way BUSY changes, from the state it changes in. -/
theorem busyChangesOnlyAtAcceptAndLastWord : Obligations.BusyChangesOnlyAtAcceptAndLastWord := by
  intro s t hstep hrst
  obtain rfl : s.after = t := Host.Outcome.next.inj ((step_eq_after s).symm.trans hstep)
  constructor
  · constructor
    · rintro ⟨hb, hb'⟩
      exact (Regs.next_busy_of_idle hrst hb).mp hb'
    · intro h
      obtain ⟨-, -, hb⟩ := commandHandshake_iff.mp h.1
      exact ⟨hb, (Regs.next_busy_of_idle hrst hb).mpr h⟩
  · constructor
    · rintro ⟨hb, hb'⟩
      exact (Regs.next_not_busy_of_busy hrst hb).mp hb'
    · intro h
      obtain ⟨-, hb, -⟩ := outputHandshake_iff.mp h.1
      exact ⟨hb, (Regs.next_not_busy_of_busy hrst hb).mpr h⟩

/-! ### Ports that are not sampled (R142, R193) -/

/-- An idle block does not read `out_ready`. -/
theorem Regs.next_congr_of_command {inp' : Inputs c} (hb : r.busy = false) (hrst : inp.rst = inp'.rst)
    (hv : inp.cmdValid = inp'.cmdValid) (hcmd : inp.command = inp'.command) : r.next inp = r.next inp' := by
  obtain ⟨rst, valid, ctrl, seed, len, ready⟩ := inp
  obtain ⟨rst', valid', ctrl', seed', len', ready'⟩ := inp'
  obtain ⟨rfl, rfl, rfl⟩ : ctrl = ctrl' ∧ seed = seed' ∧ len = len' := by simpa [Inputs.command] using hcmd
  obtain rfl : rst = rst' := hrst
  obtain rfl : valid = valid' := hv
  simp [Regs.next, hb]

/-- Settles O30: the branch of the next-state function that is taken does not read the ports that differ. -/
theorem unsampledInputsHaveNoEffect : Obligations.UnsampledInputsHaveNoEffect := by
  intro c r inp inp' rest n env hrst hcase
  have hnext : r.next inp = r.next inp' := by
    obtain hr | ⟨hb, hv, hv'⟩ | ⟨hb, hv, hcmd⟩ := hcase
    · rw [Regs.next_of_reset hr, Regs.next_of_reset (hrst ▸ hr)]
    · cases hr : inp.rst with
      | true => rw [Regs.next_of_reset hr, Regs.next_of_reset (hrst ▸ hr)]
      | false => rw [Regs.next_of_no_command hr hb hv, Regs.next_of_no_command (hrst ▸ hr) hb hv']
    · exact Regs.next_congr_of_command hb hrst hv hcmd
  rw [step_of_next_eq (s := ⟨c, r, inp :: rest, n, env⟩) rfl,
    step_of_next_eq (s := ⟨c, r, inp' :: rest, n, env⟩) hnext.symm]
  rfl

end Sys2Proof.Machine
end

section
/-! Proofs of the further statements on words and invariants (40_walking_bit_shifter.md, 41_alternating_word_mux.md,
20_memory.md, 42_pattern_sequence_generator.md): the units' words and the sequences are the source's, and the invariants
(R154), kept by every step, hold IDX below LEN. -/

namespace Sys2Proof.Machine

variable {c : Config}

/-- Settles O36: both words have their bit at the same place. -/
theorem walkingWordIsTheSourcesWord : Obligations.WalkingWordIsTheSourcesWord :=
  fun _ _ _ _ pol hshift hflip => wbsWord_eq_walkElem hshift hflip pol

/-- Settles O37: both words are the seed or its complement, by the index's parity. -/
theorem alternatingWordIsTheSourcesWord : Obligations.AlternatingWordIsTheSourcesWord :=
  fun _ _ seed _ htoggle => awmWord_eq_altElem htoggle seed

theorem commandWords_length (c : Config) (i : Instr) : (commandWords c i).length = i.len := by
  rw [commandWords_eq_map, List.length_map, List.length_range]

theorem withLast_commandWords_length (c : Config) (i : Instr) : (withLast (commandWords c i)).length = i.len := by
  rw [withLast_commandWords_eq_map, List.length_map, List.length_range]

/-- Settles O48: a sequence is a map over the indices below the length, which marks the last one. -/
theorem commandWordsHaveTheRequestedLength : Obligations.CommandWordsHaveTheRequestedLength := by
  intro c i
  refine ⟨commandWords_length c i, withLast_commandWords_length c i, fun k w last hk => ?_⟩
  obtain ⟨-, -, rfl⟩ : k < i.len ∧ commandWord c i k = w ∧ decide (k + 1 = i.len) = last := by
    simpa [withLast_commandWords_eq_map, List.getElem?_eq_some_iff] using hk
  exact decide_eq_true_iff

/-- Settles O43: each branch of the next-state function keeps the invariants. -/
theorem invariantIsKeptByEveryStep : Obligations.InvariantIsKeptByEveryStep := fun _ _ => State.Inv.step

/-- Settles O44: the registers are RESET_STATE in each of the three. -/
theorem invariantHoldsAtReset : Obligations.InvariantHoldsAtReset :=
  ⟨Regs.inv_reset _, fun c _ => Regs.inv_reset c, fun s => Regs.inv_reset s.cfg⟩

/-- Settles O46: before the last word there is a next index below LEN, which the word advance goes to. -/
theorem indexNeverWraps : Obligations.IndexNeverWraps := by
  intro s hinv hout hlast
  obtain ⟨-, hb, -⟩ := outputHandshake_iff.mp hout
  have hnotLast : atLastWord s.regs = false := by simpa [Regs.outputs, Regs.outLast, hb] using hlast
  obtain ⟨hlen, hidx⟩ := hinv.busy_bounds hb
  have hsucc : s.regs.idx.toNat + 1 < s.regs.len.toNat := Regs.idx_succ_lt (by omega) hnotLast
  have hnext : s.regs.advance.idx.toNat = s.regs.idx.toNat + 1 := Regs.advance_idx_toNat hsucc
  exact ⟨_, step_of_next_eq (Regs.next_of_not_last hout hnotLast), hnext, rfl,
    Nat.le_sub_one_of_lt (hnext.trans_lt hsucc)⟩

end Sys2Proof.Machine
end

section
/-! Proofs of the further statements on runs (42_pattern_sequence_generator.md, 60_exceptions.md, 70_reset_and_hazards.md):
the end of a command, and what of the registers a later cycle can tell. -/

namespace Sys2Proof.Machine

variable {c : Config} {s : State} {n : Nat}

/-- Settles O16: every step gives a state. -/
theorem everyRunIsSafe : Obligations.EveryRunIsSafe := run_total

/-- A step in the fields of the state. -/
theorem step_mk (r : Regs c) (ins : List (Inputs c)) (m env : Nat) :
    step ⟨c, r, ins, m, env⟩ = .next ⟨c, r.next (ins.headD (c.freeInputs env m)), ins.tail, m + 1, env⟩ :=
  stepIsTheNextStateFunction _

/-! ### The end of a command (R159) -/

theorem NoReset.mono {m : Nat} (h : NoReset n s) (hmn : m ≤ n) : NoReset m s := fun k hk => h k (hk.trans_le hmn)

/-- One cycle more has at most one ready cycle more. -/
theorem readyCycles_succ_le (n : Nat) (s : State) : readyCycles (n + 1) s ≤ readyCycles n s + 1 := by
  rw [readyCycles, List.range_succ, List.countP_append]
  exact Nat.add_le_add_left List.countP_le_length _

/-- The first cycle count by which the consumer has been ready `len` times. -/
theorem exists_first_readyCycles {len : Nat} (h : len ≤ readyCycles n s) :
    ∃ m, m ≤ n ∧ readyCycles m s = len ∧ ∀ k, k < m → readyCycles k s < len := by
  induction n with
  | zero =>
    obtain rfl : len = 0 := Nat.le_zero.mp h
    exact ⟨0, le_rfl, rfl, fun k hk => absurd hk (Nat.not_lt_zero k)⟩
  | succ n ih =>
    obtain hn | hn := Nat.lt_or_ge (readyCycles n s) len
    · have hsucc := readyCycles_succ_le n s
      exact ⟨n + 1, le_rfl, by omega, fun k hk => (readyCycles_mono (Nat.le_of_lt_succ hk) s).trans_lt hn⟩
    · obtain ⟨m, hm, hready, hfirst⟩ := ih hn
      exact ⟨m, hm.trans n.le_succ, hready, hfirst⟩

/-- While the consumer is never ready a busy block keeps its registers (R152). -/
theorem run_of_never_ready (hb : s.regs.busy = true) (hn : NoReset n s) (hready : readyCycles n s = 0) :
    ∃ ins m, Sys2Proof.core.run n s = .next ⟨s.cfg, s.regs, ins, m, s.env⟩ := by
  induction n generalizing s with
  | zero => exact ⟨s.inputs, s.cycle, rfl⟩
  | succ n ih =>
    obtain ⟨hrst, hn'⟩ := noReset_succ_of_next (step_eq_after s) hn
    cases hout : s.currentInputs.outReady with
    | true => simp [readyCycles_succ_of_ready hout] at hready
    | false =>
      have hhold : s.after = ⟨s.cfg, s.regs, s.inputs.tail, s.cycle + 1, s.env⟩ := by
        rw [State.after, Regs.next_of_busy hrst hb, hout]
        rfl
      rw [readyCycles_succ_of_not_ready hout] at hready
      rw [run_succ_of_next (step_eq_after s)]
      rw [hhold] at hn' hready ⊢
      exact ih (s := ⟨s.cfg, s.regs, s.inputs.tail, s.cycle + 1, s.env⟩) hb hn' hready

/-- Settles O49: the stream's statement at the first cycle by which the consumer has been ready often enough; and the
registers kept while it is never ready. -/
theorem commandEndsWhenItsWordsAreTaken : Obligations.CommandEndsWhenItsWordsAreTaken := by
  intro s t i n hcmd hi hstep hn
  refine ⟨fun hlen => ?ends, fun hlen hready => ?holds⟩
  case ends =>
    obtain ⟨m, hm, hready, hfirst⟩ := exists_first_readyCycles hlen
    obtain ⟨-, u, hrun, -, hdone⟩ :=
      deliveredStreamIsTheSourcesSequence s t i m hcmd hi hstep (hn.mono hm)
    exact ⟨m, u, hm, hrun, hdone hfirst hready, hready⟩
  case holds =>
    obtain ⟨-, hserves⟩ := serves_of_accept hcmd hi hstep
    have hb := hserves.busy hlen
    obtain ⟨ins, m, hrun⟩ := run_of_never_ready hb hn hready
    exact ⟨_, hrun, hb, rfl⟩

/-! ### Retained values (R36)

Two idle blocks that differ in what they retain alone take the same commands, and a legal one makes them equal. -/

/-- Both idle, with the same error registers. -/
structure Regs.IdleAlike (r r' : Regs c) : Prop where
  idle_left : r.busy = false
  idle_right : r'.busy = false
  err_eq : r.err = r'.err
  errCtrl_eq : r.errCtrl = r'.errCtrl

section IdleAlike
variable {r r' : Regs c}

/-- The outputs of an idle block are those of its error registers. -/
theorem Regs.outputs_of_idle (hb : r.busy = false) :
    r.outputs = ⟨true, false, 0x00000000#32, false, r.err, r.errCtrl⟩ := by
  simp [Regs.outputs, Regs.outData, Regs.outLast, hb]

theorem Regs.IdleAlike.outputs_eq (h : r.IdleAlike r') : r.outputs = r'.outputs := by
  rw [Regs.outputs_of_idle h.idle_left, Regs.outputs_of_idle h.idle_right, h.err_eq, h.errCtrl_eq]

theorem Regs.IdleAlike.raiseIllegalCmd (h : r.IdleAlike r') (ctrl : Byte) :
    (r.raiseIllegalCmd ctrl).IdleAlike (r'.raiseIllegalCmd ctrl) where
  idle_left := h.idle_left
  idle_right := h.idle_right
  err_eq := rfl
  errCtrl_eq := by rw [Regs.raiseIllegalCmd_errCtrl, Regs.raiseIllegalCmd_errCtrl, h.err_eq, h.errCtrl_eq]

/-- A legal accept writes all that the two retain (R143). -/
theorem Regs.IdleAlike.accept_eq (h : r.IdleAlike r') (inp : Inputs c) : r.accept inp = r'.accept inp := by
  simp only [Regs.accept, Regs.latch, h.err_eq, h.errCtrl_eq]

/-- One edge makes the two equal, or leaves them alike. -/
theorem Regs.IdleAlike.next (h : r.IdleAlike r') (inp : Inputs c) :
    r.next inp = r'.next inp ∨ (r.next inp).IdleAlike (r'.next inp) := by
  have hshake : commandHandshake inp r' = commandHandshake inp r := by
    rw [commandHandshake_eq, commandHandshake_eq, h.idle_left, h.idle_right]
  obtain ⟨hrst, he⟩ | ⟨-, hb, -⟩ | ⟨hrst, hb, hv, he⟩ | ⟨hcmd, hl, he⟩ | ⟨hcmd, hl, he⟩ := r.next_cases inp
  · exact .inl (he.trans (Regs.next_of_reset hrst).symm)
  · simp [h.idle_left] at hb
  · rw [he, Regs.next_of_no_command hrst h.idle_right hv]
    exact .inr h
  · rw [he, Regs.next_of_illegal (hshake.trans hcmd) hl]
    exact .inr (h.raiseIllegalCmd inp.cmdCtrl)
  · rw [he, Regs.next_of_legal (hshake.trans hcmd) hl]
    exact .inl (h.accept_eq inp)

end IdleAlike

/-- The words delivered later do not tell two idle blocks apart. -/
theorem delivered_of_idleAlike (n : Nat) {r r' : Regs c} (h : r.IdleAlike r') (ins : List (Inputs c)) (m env : Nat) :
    delivered n ⟨c, r, ins, m, env⟩ = delivered n ⟨c, r', ins, m, env⟩ := by
  induction n generalizing r r' ins m with
  | zero => rfl
  | succ n ih =>
    rw [delivered_succ_of_next (step_mk r ins m env), delivered_succ_of_next (step_mk r' ins m env),
      delivery_of_idle h.idle_left, delivery_of_idle h.idle_right]
    obtain heq | halike := h.next (ins.headD (c.freeInputs env m))
    · rw [heq]
    · rw [ih halike]

/-- Without reset and legal accept an idle block writes its error registers at most. -/
theorem Regs.next_of_idle_eq {inp : Inputs c} {r : Regs c} (hb : r.busy = false) (hrst : inp.rst = false)
    (hacc : (commandHandshake inp r && legal inp.cmdCtrl) = false) :
    r.next inp = { r with err := (r.next inp).err, errCtrl := (r.next inp).errCtrl } := by
  obtain ⟨hr, -⟩ | ⟨-, hb', -⟩ | ⟨-, -, -, he⟩ | ⟨-, -, he⟩ | ⟨hcmd, hl, -⟩ := r.next_cases inp
  · simp [hrst] at hr
  · simp [hb] at hb'
  · rw [he]
  · rw [he]
    rfl
  · simp [hcmd, hl] at hacc

/-- Settles O51: the outputs now, the words of every later run, and the registers that are kept. -/
theorem retainedValuesAreNotObservable : Obligations.RetainedValuesAreNotObservable := by
  intro s r hb hb' herr hctrl
  have halike : r.IdleAlike s.regs := ⟨hb', hb, herr, hctrl⟩
  exact ⟨halike.outputs_eq, fun n => delivered_of_idleAlike n halike _ _ _, fun hrst hacc =>
    ⟨_, step_of_next_eq rfl, Regs.next_of_idle_eq hb hrst hacc⟩⟩

/-! ### Reset (R64, R190) -/

/-- Up to a reset edge both runs sample the same inputs, and it makes the registers the same. -/
theorem run_congr_of_reset {k : Nat} (hkn : k < n) (r r' : Regs c) (ins : List (Inputs c)) (m env : Nat)
    (hrst : (State.inputsAt ⟨c, r', ins, m, env⟩ k).rst = true) :
    Sys2Proof.core.run n ⟨c, r, ins, m, env⟩ = Sys2Proof.core.run n ⟨c, r', ins, m, env⟩ := by
  obtain ⟨n, rfl⟩ := Nat.exists_eq_add_one_of_ne_zero (Nat.ne_zero_of_lt hkn)
  induction k generalizing r r' ins m n with
  | zero =>
    have hrst : (ins.headD (c.freeInputs env m)).rst = true := by rwa [State.inputsAt_zero] at hrst
    rw [run_succ_of_next (step_mk r ins m env), run_succ_of_next (step_mk r' ins m env), Regs.next_of_reset hrst,
      Regs.next_of_reset hrst]
  | succ k ih =>
    obtain ⟨hrst', -⟩ := step_rst_outReady (step_mk r' ins m env) k
    obtain ⟨n, rfl⟩ := Nat.exists_eq_add_one_of_ne_zero (show n ≠ 0 by omega)
    rw [run_succ_of_next (step_mk r ins m env), run_succ_of_next (step_mk r' ins m env)]
    exact ih _ _ _ _ (hrst'.trans hrst) n (by omega)

/-- Settles O52, on the two runs' fields. -/
theorem resetErasesTheHistory : Obligations.ResetErasesTheHistory :=
  fun _ r _ _ hkn hrst => run_congr_of_reset hkn r _ _ _ _ hrst

/-! ### The error registers (R175) -/

/-- Settles O53, by the length of the run: without reset a step keeps ERR set and ERR_CTRL. -/
theorem errorIsStickyUntilReset : Obligations.ErrorIsStickyUntilReset := by
  intro n s herr hn
  induction n generalizing s with
  | zero => exact ⟨s, rfl, herr, rfl⟩
  | succ n ih =>
    obtain ⟨hrst, hn'⟩ := noReset_succ_of_next (step_eq_after s) hn
    obtain ⟨-, hkeep, -⟩ := errorRegistersChangeOnlyOnIllegalAccept s s.after (step_eq_after s)
    obtain ⟨herr', hctrl'⟩ := hkeep hrst
    rw [herr] at herr' hctrl'
    obtain ⟨t, hrun, hterr, htctrl⟩ := ih s.after (herr'.trans (Bool.true_or _)) hn'
    rw [run_succ_of_next (step_eq_after s)]
    exact ⟨t, hrun, hterr, htctrl.trans (by simpa using hctrl')⟩

end Sys2Proof.Machine
end

section
/-! Proofs of the statements on separate blocks (20_memory.md, 60_exceptions.md): an edge of one block changes its own
place in the bank alone, where it puts the block's own next state (R57, R64, R184). -/

namespace Sys2Proof.Machine

/-! ### One edge in a bank -/

/-- The state after an edge in environment `k`. -/
def State.afterIn (k : Nat) (s : State) : State := State.after { s with env := k }

/-- In its own environment a block in a bank steps as it would alone. -/
theorem State.afterIn_env (s : State) : s.afterIn s.env = s.after := rfl

theorem stepInstance_eq_modify (k : Nat) (bank : List State) :
    stepInstance k bank = bank.modify k (State.afterIn k) := by
  rw [stepInstance, List.modify_eq_set_getElem?]
  cases bank[k]? with
  | none => rfl
  | some s => simp only [step_eq_after]; rfl

theorem getElem?_stepInstance_self {bank : List State} {k : Nat} {s : State} (hs : bank[k]? = some s) :
    (stepInstance k bank)[k]? = some (s.afterIn k) := by
  rw [stepInstance_eq_modify, List.getElem?_modify_eq, hs]
  rfl

theorem getElem?_stepInstance_of_ne {j k : Nat} (hjk : j ≠ k) (bank : List State) :
    (stepInstance j bank)[k]? = bank[k]? := by
  rw [stepInstance_eq_modify, List.getElem?_modify_ne _ _ hjk]

/-- Settles O54: two edges change two places of the list. -/
theorem instancesDoNotInterfere : Obligations.InstancesDoNotInterfere := by
  intro bank j k hjk
  refine ⟨getElem?_stepInstance_of_ne hjk bank, ?_⟩
  simp only [stepInstance_eq_modify]
  exact List.modify_modify_ne _ _ _ hjk.symm

/-- Settles O57: what an edge puts in the block's place, in fields. -/
theorem eachInstanceReadsItsOwnPorts : Obligations.EachInstanceReadsItsOwnPorts := fun _ _ _ hs =>
  getElem?_stepInstance_self hs

/-! ### Runs of a bank -/

/-- An order of edges, block by block: `k` runs alone for as many edges as it has in the order. -/
theorem runBank_getElem? (order : List Nat) {bank : List State} {k : Nat} {s : State} (hs : bank[k]? = some s)
    (henv : s.env = k) :
    ∃ t, Sys2Proof.core.run (order.count k) s = .next t ∧ (runBank order bank)[k]? = some t := by
  induction order generalizing bank s with
  | nil => exact ⟨s, rfl, hs⟩
  | cons j order ih =>
    have hbank : runBank (j :: order) bank = runBank order (stepInstance j bank) := rfl
    rw [hbank]
    obtain rfl | hjk := eq_or_ne j k
    · have hself : (stepInstance j bank)[j]? = some s.after := by
        rw [getElem?_stepInstance_self hs, ← henv, State.afterIn_env]
      rw [List.count_cons_self, run_succ_of_next (step_eq_after s)]
      exact ih hself henv
    · rw [List.count_cons_of_ne hjk]
      exact ih ((getElem?_stepInstance_of_ne hjk bank).trans hs) henv

theorem freshBank_getElem? {cs : List Config} {k : Nat} {c : Config} (hc : cs[k]? = some c) :
    (freshBank cs)[k]? = some (State.resetFor c k) := by
  rw [freshBank, List.getElem?_mapIdx, hc]
  rfl

/-- Settles O58, by the order of the edges. -/
theorem eachInstanceRunsAsItWouldAlone : Obligations.EachInstanceRunsAsItWouldAlone :=
  ⟨fun order _ _ _ hs henv => runBank_getElem? order hs henv, fun _ _ _ hc => freshBank_getElem? hc⟩

end Sys2Proof.Machine
end

section
/-! Proof of the statement on the assembler (30_encoding.md): its lines are the encoder's commands (R78), a
pseudo-instruction stands for its expansion (R79), and a literal out of range is refused. -/

namespace Sys2Proof.Machine

variable {c : Config}

theorem le_maskW_iff (c : Config) (seed : Nat) : seed ≤ (maskW c).toNat ↔ seed < 2 ^ c.W := by
  have := Nat.two_pow_pos c.W
  rw [maskW_toNat]
  omega

section Fields
variable {len : Nat}

theorem assembleFields_of_lt (hlen : len < 2 ^ c.LW) (ctrl : Byte) (seed : Word) :
    assembleFields c ctrl seed len = .ok ⟨ctrl, seed, BitVec.ofNat c.LW len⟩ :=
  if_pos hlen

theorem assembleFields_of_le (hlen : 2 ^ c.LW ≤ len) (ctrl : Byte) (seed : Word) :
    assembleFields c ctrl seed len = .error .lengthTooLarge :=
  if_neg (Nat.not_lt.mpr hlen)

/-- An ALT line whose seed is at most MASK_W has ALT's control byte and that seed. -/
theorem assemble_alt_of_lt {seed : Nat} (hseed : seed < 2 ^ c.W) (len : Nat) :
    assemble c (.alt len seed) = assembleFields c 0x01#8 (BitVec.ofNat 32 seed) len :=
  if_pos ((le_maskW_iff c seed).mpr hseed)

theorem assemble_alt_of_le {seed : Nat} (hseed : 2 ^ c.W ≤ seed) (len : Nat) :
    assemble c (.alt len seed) = .error .seedTooLarge :=
  if_neg fun h => Nat.not_lt.mpr hseed ((le_maskW_iff c seed).mp h)

/-- The table of R78 gives WALK the encoder's control byte. -/
theorem encodeCtrl_walk (ones : Bool) (len : Nat) :
    encodeCtrl (.walk ones len) = if ones then 0x04#8 else 0x00#8 := by
  cases ones <;> simp only [encodeCtrl] <;> decide

theorem assemble_walk_of_lt (hlen : len < 2 ^ c.LW) (ones : Bool) :
    assemble c (.walk len ones) = .ok (encode c (.walk ones len)) := by
  rw [encode, encodeCtrl_walk]
  exact assembleFields_of_lt hlen _ _

end Fields

/-- A pseudo-instruction assembles as its expansion does (R79). -/
theorem assemble_expand (c : Config) (line : AsmLine) : assemble c (expand line) = assemble c line := by
  cases line <;> rfl

/-- Settles O56, line by line. -/
theorem assemblerEncodesItsLines : Obligations.AssemblerEncodesItsLines := by
  intro c len seed byte ones
  refine ⟨fun hlen => ⟨assemble_walk_of_lt hlen ones, fun hseed => ?_, assembleFields_of_lt hlen _ _,
      assembleFields_of_lt hlen _ _⟩, ⟨rfl, rfl, rfl, rfl, assemble_expand c⟩, fun hbyte => if_pos hbyte,
    fun hseed => assemble_alt_of_le hseed len, fun hlen => ⟨assembleFields_of_le hlen _ _, fun hseed => ?_,
      assembleFields_of_le hlen _ _, assembleFields_of_le hlen _ _⟩, fun hbyte => if_neg (Nat.not_lt.mpr hbyte)⟩
  · rw [assemble_alt_of_lt hseed, assembleFields_of_lt hlen]
    rfl
  · rw [assemble_alt_of_lt hseed, assembleFields_of_le hlen]

end Sys2Proof.Machine
end
